-- ==== Sys2Proof/Word.lean ====
section
/-! DEFINITION. The word types of the machine: bytes, 32-bit words, 16-bit selectors and 64-bit
model-specific registers (10_state.md rules R20, R23, R24, R27, R32). Bit 0 is the least significant
bit (00_scope.md rule R9). -/

namespace Sys2Proof

/-- One byte of memory or of an instruction. -/
abbrev Byte := BitVec 8

/-- A general register, EIP, EFLAGS, a linear address (R20, R23, R24, R60). -/
abbrev Word := BitVec 32

/-- The visible part of a segment register (R27). -/
abbrev Selector := BitVec 16

/-- The contents of a model-specific register (R32). -/
abbrev MsrWord := BitVec 64

/-- The size of the address space in bytes, 4 Gbytes (R60). -/
abbrev spaceSize : Nat := 4294967296

end Sys2Proof
end

