-- ==== Sys2Proof/Config.lean ====
section
/-! DEFINITION. The configuration record of 00_scope.md rule R8 and the free values ("draws", rule
R15). A configuration is plain data: the machine's state carries the one it runs with (log entry 8),
so that a claim ranges over every member of the family. A free value is an opaque constant without
a body: no proof can learn anything about it. -/

namespace Sys2Proof

/-- `PROC` of rule R8: the members of the family that rule R1 names. -/
inductive Proc where
  | am486_5x86   -- Am486DX4 and Am5x86
  | k5M0         -- AMD-K5 model 0
  | k5M1         -- AMD-K5 model 1
  | k5M2         -- AMD-K5 model 2
  | k5M3         -- AMD-K5 model 3
  | k6M6         -- AMD-K6 model 6
  | k6M7         -- AMD-K6 model 7
  | k6_3dM8      -- AMD-K6 3D model 8
  | k6p_3dM9     -- AMD-K6+ 3D model 9
deriving DecidableEq, Repr

/-- The four words one CPUID call leaves in EAX, EBX, ECX, EDX, in that order (R100). -/
structure Quad where
  eax : Word
  ebx : Word
  ecx : Word
  edx : Word
deriving DecidableEq, Repr

/-- `M9_VALUES` of rule R8: what no source gives for the AMD-K6+ 3D model 9 (R157). What R157 does
derive (the vendor string, family 5, model 9, a largest extended function of at least 8000_0005h)
is not a field and cannot be set otherwise. -/
structure M9Values where
  /-- EAX of function 0. -/
  largestStd : Word
  /-- EAX[31:12] of function 1. -/
  signatureHigh : BitVec 20
  /-- EDX of function 1. -/
  stdFeatures : Word
  /-- How far EAX of function 8000_0000h lies above 8000_0005h. -/
  largestExtAbove : Fin 0x7FFFFFFB
  /-- EAX[31:12] of function 8000_0001h. -/
  amdSignatureHigh : BitVec 20
  /-- EAX[11:8] of function 8000_0001h, the generation digit. -/
  generation : BitVec 4
  /-- EDX of function 8000_0001h. -/
  extFeatures : Word
  /-- Functions 8000_0002h, 8000_0003h, 8000_0004h: the processor name string. -/
  name2 : Quad
  name3 : Quad
  name4 : Quad
  /-- EBX, ECX, EDX of function 8000_0005h. -/
  tlbInfo : Word
  l1dInfo : Word
  l1iInfo : Word
deriving DecidableEq, Repr

/-- The configuration record (R8). `HAS_CPUID`, `HAS_EXT` and `HAS_SYSCALL` are derived from it
(Machine/CpuidValues.lean); `RESET_STATE` is the start state itself. -/
structure Config where
  proc       : Proc
  /-- `STEPPING`, signature bits [3:0]. -/
  stepping   : BitVec 4
  /-- `AM486_MODEL`, used only when `proc` is `am486_5x86`. -/
  am486Model : BitVec 4
  m9         : M9Values
  /-- `SCE_BIT`, the position of EFER.SCE (D9; general knowledge says 0). -/
  sceBit     : Fin 64
  /-- `IF_BIT`, the position of EFLAGS.IF (D10; general knowledge says 9). -/
  ifBit      : Fin 32
  /-- `VM_BIT`, the position of EFLAGS.VM (D10; general knowledge says 17). -/
  vmBit      : Fin 32
deriving DecidableEq, Repr

/-- The EFLAGS positions that the spec gives to bits other than IF and VM: ID by both sources (R25),
the others by general knowledge (R26): CF 0, the always-one bit 1, PF 2, AF 4, ZF 6, SF 7, TF 8,
DF 10, OF 11, IOPL 12 and 13, NT 14, RF 16, AC 18, ID 21. -/
abbrev Config.takenFlagBits : List Nat := [0, 1, 2, 4, 6, 7, 8, 10, 11, 12, 13, 14, 16, 18, 21]

/-- The positions chosen for IF and VM collide with no other named flag nor with each other. -/
abbrev Config.flagsApart (c : Config) : Prop :=
  c.ifBit.val ∉ Config.takenFlagBits ∧ c.vmBit.val ∉ Config.takenFlagBits ∧ c.ifBit ≠ c.vmBit

/-- FREE VALUE. `draw(32)` of rule R15: the n-th 32-bit draw of a run (a register that CPUID leaves
"Reserved" or "Undefined", R117 to R119). Log entry 10. -/
opaque Config.draw32 : Nat → Word

/-- FREE VALUE. `draw(1)` of rule R15: the n-th one-bit draw of a run (AF after XOR and TEST, R213).
Log entry 10. -/
opaque Config.draw1 : Nat → Bool

/-- FREE VALUE. Whether a segment with the attributes `ATTR_OTHER(v)` is writable: the encoding of
attributes is in no source (R28, 91_not_in_source.md N25). Log entry 14. -/
opaque Config.otherAttrWritable : Nat → Bool

end Sys2Proof
end

