-- ==== Sys2Proof/Machine/CpuidValues.lean ====
section
/-! DEFINITION. What CPUID returns: the words of doc00 Table 10 per processor (41_cpuid_values.md
rules R140 to R158), the signatures assembled from their fields (40_cpuid.md rules R106, R111), and the
dispatch on the function number (R103). The derived configuration values HAS_CPUID, HAS_EXT and
HAS_SYSCALL (R8) stand here too. -/

namespace Sys2Proof

/-- `HAS_CPUID`: true for every processor of the spec (R1, R8, R101). -/
def Config.hasCpuid (c : Config) : Bool :=
  match c.proc with
  | .am486_5x86 => true
  | .k5M0 => true
  | .k5M1 => true
  | .k5M2 => true
  | .k5M3 => true
  | .k6M6 => true
  | .k6M7 => true
  | .k6_3dM8 => true
  | .k6p_3dM9 => true

/-! ### Standard functions -/

/-- The instruction family, signature bits [11:8] of function 1 (R106, R141). -/
def Config.family (c : Config) : BitVec 4 :=
  match c.proc with
  | .am486_5x86 => 0x4
  | _ => 0x5

/-- The model, signature bits [7:4] of both signatures (R106, R111, R141). -/
def Config.model (c : Config) : BitVec 4 :=
  match c.proc with
  | .am486_5x86 => c.am486Model
  | .k5M0 => 0x0
  | .k5M1 => 0x1
  | .k5M2 => 0x2
  | .k5M3 => 0x3
  | .k6M6 => 0x6
  | .k6M7 => 0x7
  | .k6_3dM8 => 0x8
  | .k6p_3dM9 => 0x9

/-- A signature from its fields, most significant first (R106, R111). -/
def signatureWord (high : BitVec 20) (family model stepping : BitVec 4) : Word :=
  high ++ family ++ model ++ stepping

/-- `STD_SIGNATURE(cfg)`; bits [31:12] are 0 but for model 9, where they are open (R106, R157). -/
def Config.stdSignature (c : Config) : Word :=
  signatureWord (if c.proc = .k6p_3dM9 then c.m9.signatureHigh else 0) c.family c.model c.stepping

/-- `STD_FEATURES(cfg)`, EDX of function 1 (R142 to R149, R157). -/
def Config.stdFeatures (c : Config) : Word :=
  match c.proc with
  | .am486_5x86 => 0x00000001
  | .k5M0 => 0x000003BF
  | .k5M1 => 0x000021BF
  | .k5M2 => 0x000021BF
  | .k5M3 => 0x000021BF
  | .k6M6 => 0x008001BF
  | .k6M7 => 0x008001BF
  | .k6_3dM8 => 0x008001BF
  | .k6p_3dM9 => c.m9.stdFeatures

/-- EAX of function 0 (R104, R155, R157). -/
def Config.largestStd (c : Config) : Word :=
  if c.proc = .k6p_3dM9 then c.m9.largestStd else 0x00000001

/-! ### Extended functions -/

/-- What the extended functions 8000_0001h to 8000_0005h return beside the signature's model and
stepping. -/
structure ExtData where
  /-- EAX[31:12] of function 8000_0001h (R111). -/
  signatureHigh : BitVec 20
  /-- EAX[11:8] of function 8000_0001h (R111). -/
  generation : BitVec 4
  /-- EDX of function 8000_0001h (R112). -/
  features : Word
  /-- Functions 8000_0002h, 8000_0003h, 8000_0004h (R113). -/
  name2 : Quad
  name3 : Quad
  name4 : Quad
  /-- EBX, ECX, EDX of function 8000_0005h (R115). -/
  tlb : Word
  l1d : Word
  l1i : Word
deriving DecidableEq, Repr

/-- The AMD-K5 models 1, 2 and 3 (R144 to R146). -/
def extDataK5 : ExtData where
  signatureHigh := 0
  generation := 0x5
  features := 0x000021BF
  name2 := ⟨0x2D444D41, 0x7428354B, 0x5020296D, 0x65636F72⟩
  name3 := ⟨0x726F7373, 0x00000000, 0x00000000, 0x00000000⟩
  name4 := ⟨0x00000000, 0x00000000, 0x00000000, 0x00000000⟩
  tlb := 0x04800000
  l1d := 0x08040120
  l1i := 0x10040120

/-- The AMD-K6 models 6 and 7, but for the feature word (R147, R148). -/
def extDataK6 (features : Word) : ExtData where
  signatureHigh := 0
  generation := 0x6
  features := features
  name2 := ⟨0x2D444D41, 0x6D74364B, 0x202F7720, 0x746C756D⟩
  name3 := ⟨0x64656D69, 0x65206169, 0x6E657478, 0x6E6F6973⟩
  name4 := ⟨0x00000073, 0x00000000, 0x00000000, 0x00000000⟩
  tlb := 0x02800140
  l1d := 0x20020220
  l1i := 0x20020220

/-- The AMD-K6 3D model 8 (R149). -/
def extDataK63D : ExtData where
  signatureHigh := 0
  generation := 0x6
  features := 0x808009BF
  name2 := ⟨0x2D444D41, 0x7428364B, 0x3320296D, 0x72702044⟩
  name3 := ⟨0x7365636F, 0x00726F73, 0x00000000, 0x00000000⟩
  name4 := ⟨0x00000000, 0x00000000, 0x00000000, 0x00000000⟩
  tlb := 0x02800140
  l1d := 0x20020220
  l1i := 0x20020220

/-- The AMD-K6+ 3D model 9: open (R157, D18). -/
def extDataM9 (v : M9Values) : ExtData where
  signatureHigh := v.amdSignatureHigh
  generation := v.generation
  features := v.extFeatures
  name2 := v.name2
  name3 := v.name3
  name4 := v.name4
  tlb := v.tlbInfo
  l1d := v.l1dInfo
  l1i := v.l1iInfo

/-- The extended functions of a processor; none where it has none (R140, R142 to R149, R157). The A
stepping of model 7 is stepping 0 (R156). -/
def Config.extData (c : Config) : Option ExtData :=
  match c.proc with
  | .am486_5x86 => none
  | .k5M0 => none
  | .k5M1 => some extDataK5
  | .k5M2 => some extDataK5
  | .k5M3 => some extDataK5
  | .k6M6 => some (extDataK6 0x008001BF)
  | .k6M7 => some (extDataK6 (if c.stepping = 0 then 0x008001BF else 0x008009BF))
  | .k6_3dM8 => some extDataK63D
  | .k6p_3dM9 => some (extDataM9 c.m9)

/-- `HAS_EXT` (R8, R140). -/
def Config.hasExt (c : Config) : Bool := c.extData.isSome

/-- EAX of function 8000_0000h where there are extended functions (R109, R155, R157). -/
def Config.largestExt (c : Config) : Word :=
  if c.proc = .k6p_3dM9 then 0x80000005 + BitVec.ofNat 32 c.m9.largestExtAbove.val else 0x80000005

/-- `AMD_SIGNATURE(cfg)` (R111). -/
def Config.amdSignature (c : Config) (x : ExtData) : Word :=
  signatureWord x.signatureHigh x.generation c.model c.stepping

/-- `HAS_SYSCALL`: extended feature bit 11 (R8, R151, R180). -/
def Config.hasSyscall (c : Config) : Bool :=
  match c.extData with
  | none => false
  | some x => x.features.getLsbD 11

/-! ### Dispatch -/

/-- The vendor string "AuthenticAMD": "Auth" in EBX, "enti" in EDX, "cAMD" in ECX (R104, R150). -/
def vendorQuad (eax : Word) : Quad := ⟨eax, 0x68747541, 0x444D4163, 0x69746E65⟩

/-- The extended functions 8000_0001h to 8000_0005h on a processor that has them; every other number
gives the draws (R110, R113, R115, R119). -/
def Config.extendedFn (c : Config) (x : ExtData) (f : Word) (d : Quad) : Quad :=
  if f = 0x80000001 then ⟨c.amdSignature x, d.ebx, d.ecx, x.features⟩
  else if f = 0x80000002 then x.name2
  else if f = 0x80000003 then x.name3
  else if f = 0x80000004 then x.name4
  else if f = 0x80000005 then ⟨d.eax, x.tlb, x.l1d, x.l1i⟩
  else d

/-- `CPUID_FN(cfg, f)` (R103), with `d` the draws of this execution: a register whose result is
"Reserved" (R117), "Undefined" (R118) or of a function no source defines (R119) receives its draw. -/
def Config.cpuidFn (c : Config) (f : Word) (d : Quad) : Quad :=
  if f = 0x00000000 then vendorQuad c.largestStd
  else if f = 0x00000001 then ⟨c.stdSignature, d.ebx, d.ecx, c.stdFeatures⟩
  else if f = 0x80000000 then ⟨if c.hasExt then c.largestExt else 0x00000000, d.ebx, d.ecx, d.edx⟩
  else
    match c.extData with
    | none => d
    | some x => c.extendedFn x f d

end Sys2Proof
end

