-- ==== Sys2Proof/Syntax.lean ====
section
/-! DEFINITION. The instructions: one constructor per row of spec/opcode_table.json, fourteen in all
(30_encoding.md rules R83, R91; 43_sample_code_instructions.md rule R200). -/

namespace Sys2Proof

/-- The general registers, in the order of their encoding numbers 0 to 7 (R21, R201 (b)). -/
inductive Reg where
  | eax | ecx | edx | ebx | esp | ebp | esi | edi
deriving DecidableEq, Repr

/-- The instruction set of the spec. A register operand is one of the eight registers, an immediate is
32 bits, a displacement is 8 bits; no other value of an operand exists. -/
inductive Instr where
  /-- CPUID, 0F A2 (R100). -/
  | cpuid
  /-- SYSCALL, 0F 05 (R182). -/
  | syscall
  /-- SYSRET, 0F 07 (R185). -/
  | sysret
  /-- PUSHFD, 9C (R202). -/
  | pushfd
  /-- POPFD, 9D (R203). -/
  | popfd
  /-- PUSH r32, 50+r (R204). -/
  | pushR32 (r : Reg)
  /-- POP r32, 58+r (R205). -/
  | popR32 (r : Reg)
  /-- MOV r32a, r32b, 8B /r or 89 /r with mod = 11b; `a` is the destination (R206). -/
  | movR32R32 (a b : Reg)
  /-- MOV r32, imm32, B8+r (R207). -/
  | movR32Imm32 (r : Reg) (imm : Word)
  /-- XOR EAX, imm32, 35 (R208). -/
  | xorEaxImm32 (imm : Word)
  /-- CMP r32a, r32b, 3B /r or 39 /r with mod = 11b; `a` is the first operand (R209). -/
  | cmpR32R32 (a b : Reg)
  /-- TEST r32, imm32, F7 /0 with mod = 11b (R210). -/
  | testR32Imm32 (r : Reg) (imm : Word)
  /-- JZ rel8, 74 (R211). -/
  | jzRel8 (rel : BitVec 8)
  /-- JNZ rel8, 75 (R212). -/
  | jnzRel8 (rel : BitVec 8)
deriving DecidableEq, Repr

end Sys2Proof
end

