-- ==== Sys2Proof/WellFormed.lean ====
section
/-! DEFINITION. Well-formedness. Every operand value the syntax admits has an encoding (a register
number is one of eight, an immediate 32 bits, a displacement 8 bits), so an instruction taken alone is
always well formed; what can be ill formed is an instruction AT AN ADDRESS: its last byte and the
address after it must lie below 2^32 (10_state.md rule R23, 92_eei_decisions.md D8). -/

namespace Sys2Proof

/-- `ilen`, the length in bytes (R200's table; R81 for the three instructions the sources define). -/
def Instr.length : Instr → Nat
  | .cpuid => 2
  | .syscall => 2
  | .sysret => 2
  | .pushfd => 1
  | .popfd => 1
  | .pushR32 _ => 1
  | .popR32 _ => 1
  | .movR32R32 _ _ => 2
  | .movR32Imm32 _ _ => 5
  | .xorEaxImm32 _ => 5
  | .cmpR32R32 _ _ => 2
  | .testR32Imm32 _ _ => 6
  | .jzRel8 _ => 2
  | .jnzRel8 _ => 2

/-- The longest instruction of the spec (R210). -/
abbrev Instr.maxLength : Nat := 6

/-- `i` is well formed at the address `pc`: `pc + ilen` does not reach 2^32 (R23, D8). -/
def Instr.wellFormedAt (pc : Word) (i : Instr) : Bool :=
  decide (pc.toNat + i.length < spaceSize)

end Sys2Proof
end

