-- ==== Sys2Proof/Decode.lean ====
section
/-! DEFINITION. Decoding and encoding. The opcode table of spec/opcode_table.json is the list
`opcodeTable`, row for row, with the two second encodings that R206 and R209 give; the decoder takes
the one row a byte sequence fits (rule R87) and rejects every other sequence by name (rules R84, R85).
The encoder is written from the same rows. Bytes stand in address order (R81). -/

namespace Sys2Proof

/-! ### Bytes, bit fields and byte order -/

/-- Byte `k` of a sequence; the decoder asks only for bytes that are there. -/
def byteAt (bytes : List Byte) (k : Nat) : Byte := bytes.getD k 0

/-- Byte `k` of a 32-bit value, byte 0 being bits [7:0] (R62). -/
def wordByte (v : Word) (k : Nat) : Byte := v.extractLsb' (8 * k) 8

/-- A 32-bit value from its four bytes, least significant first (R62). -/
def wordOfBytes (b0 b1 b2 b3 : Byte) : Word := b3 ++ b2 ++ b1 ++ b0

/-- The four bytes of a 32-bit immediate, least significant first (R201 (d)). -/
def imm32Bytes (v : Word) : List Byte := [wordByte v 0, wordByte v 1, wordByte v 2, wordByte v 3]

/-- The 32-bit immediate whose first byte is byte `k` (R201 (d)). -/
def imm32At (bytes : List Byte) (k : Nat) : Word :=
  wordOfBytes (byteAt bytes k) (byteAt bytes (k + 1)) (byteAt bytes (k + 2)) (byteAt bytes (k + 3))

/-- Bits [2:0] of a byte: the register of a one-byte opcode and `rm` of a ModRM byte (R201 (c)). -/
def lowField (b : Byte) : BitVec 3 := b.extractLsb' 0 3

/-- Bits [5:3] of a ModRM byte: `reg` (R201 (c)). -/
def regField (b : Byte) : BitVec 3 := b.extractLsb' 3 3

/-- The ModRM byte with mod = 11b (R201 (c)). -/
def modRm (reg rm : BitVec 3) : Byte := (3 : BitVec 2) ++ reg ++ rm

/-- Register numbers (R201 (b)). -/
def Reg.number : Reg → BitVec 3
  | .eax => 0 | .ecx => 1 | .edx => 2 | .ebx => 3 | .esp => 4 | .ebp => 5 | .esi => 6 | .edi => 7

/-- The register of a number (R201 (b)). -/
def Reg.ofNumber (n : BitVec 3) : Reg :=
  match n.toNat with
  | 0 => .eax | 1 => .ecx | 2 => .edx | 3 => .ebx | 4 => .esp | 5 => .ebp | 6 => .esi | _ => .edi

/-! ### The opcode table -/

/-- What a row of the table stands for and where its operands sit. -/
inductive OpForm where
  | cpuid | syscall | sysret | pushfd | popfd
  | pushR32 | popR32
  /-- 8B /r: `reg` is the destination, `rm` the source. -/
  | movRegRm
  /-- 89 /r: `rm` is the destination, `reg` the source. -/
  | movRmReg
  | movImm
  | xorEax
  /-- 3B /r: `reg` is the first operand, `rm` the second. -/
  | cmpRegRm
  /-- 39 /r: `rm` is the first operand, `reg` the second. -/
  | cmpRmReg
  | testImm
  | jz | jnz
deriving DecidableEq, Repr

/-- A row of the opcode table: `pattern` under `mask` on the first `matchBytes` bytes, written as one
number with byte 0 most significant (R81, R91), and the length of the instruction. -/
structure OpRow where
  pattern    : Nat
  mask       : Nat
  matchBytes : Nat
  length     : Nat
  form       : OpForm
deriving DecidableEq, Repr

/-- The rows of spec/opcode_table.json in its order; the `alternatives` of MOV and CMP follow theirs. -/
def opcodeTable : List OpRow :=
  [ ⟨0x0FA2, 0xFFFF, 2, 2, .cpuid⟩,
    ⟨0x0F05, 0xFFFF, 2, 2, .syscall⟩,
    ⟨0x0F07, 0xFFFF, 2, 2, .sysret⟩,
    ⟨0x9C,   0xFF,   1, 1, .pushfd⟩,
    ⟨0x9D,   0xFF,   1, 1, .popfd⟩,
    ⟨0x50,   0xF8,   1, 1, .pushR32⟩,
    ⟨0x58,   0xF8,   1, 1, .popR32⟩,
    ⟨0x8BC0, 0xFFC0, 2, 2, .movRegRm⟩,
    ⟨0x89C0, 0xFFC0, 2, 2, .movRmReg⟩,
    ⟨0xB8,   0xF8,   1, 5, .movImm⟩,
    ⟨0x35,   0xFF,   1, 5, .xorEax⟩,
    ⟨0x3BC0, 0xFFC0, 2, 2, .cmpRegRm⟩,
    ⟨0x39C0, 0xFFC0, 2, 2, .cmpRmReg⟩,
    ⟨0xF7C0, 0xFFF8, 2, 6, .testImm⟩,
    ⟨0x74,   0xFF,   1, 2, .jz⟩,
    ⟨0x75,   0xFF,   1, 2, .jnz⟩ ]

/-- The first `n` bytes as one number, byte 0 most significant; none when there are fewer. -/
def headNumber (n : Nat) (bytes : List Byte) : Option Nat :=
  if bytes.length < n then none
  else some ((bytes.take n).foldl (fun acc b => acc * 256 + b.toNat) 0)

/-- A byte sequence begins with the fixed bits of a row. -/
def OpRow.fits (row : OpRow) (bytes : List Byte) : Bool :=
  match headNumber row.matchBytes bytes with
  | none => false
  | some n => n &&& row.mask == row.pattern

/-- The instruction of a form, its operands read from the bytes (R200 to R212). -/
def OpForm.instr (form : OpForm) (bytes : List Byte) : Instr :=
  match form with
  | .cpuid => .cpuid
  | .syscall => .syscall
  | .sysret => .sysret
  | .pushfd => .pushfd
  | .popfd => .popfd
  | .pushR32 => .pushR32 (Reg.ofNumber (lowField (byteAt bytes 0)))
  | .popR32 => .popR32 (Reg.ofNumber (lowField (byteAt bytes 0)))
  | .movRegRm =>
      .movR32R32 (Reg.ofNumber (regField (byteAt bytes 1))) (Reg.ofNumber (lowField (byteAt bytes 1)))
  | .movRmReg =>
      .movR32R32 (Reg.ofNumber (lowField (byteAt bytes 1))) (Reg.ofNumber (regField (byteAt bytes 1)))
  | .movImm => .movR32Imm32 (Reg.ofNumber (lowField (byteAt bytes 0))) (imm32At bytes 1)
  | .xorEax => .xorEaxImm32 (imm32At bytes 1)
  | .cmpRegRm =>
      .cmpR32R32 (Reg.ofNumber (regField (byteAt bytes 1))) (Reg.ofNumber (lowField (byteAt bytes 1)))
  | .cmpRmReg =>
      .cmpR32R32 (Reg.ofNumber (lowField (byteAt bytes 1))) (Reg.ofNumber (regField (byteAt bytes 1)))
  | .testImm => .testR32Imm32 (Reg.ofNumber (lowField (byteAt bytes 1))) (imm32At bytes 2)
  | .jz => .jzRel8 (byteAt bytes 1)
  | .jnz => .jnzRel8 (byteAt bytes 1)

/-! ### Rejection by name -/

/-- Why a byte sequence is no instruction of the spec. Each is a refusal (R84, R85, R87). -/
inductive DecodeError where
  /-- The sequence ends before the instruction does. -/
  | truncated
  /-- An instruction-modifying byte (operand size, address size, segment, LOCK, REP) stands first
  (R84, D11). Log entry 18 lists the bytes. -/
  | prefixByte (b : Byte)
  /-- No row of the table begins with this byte (R85 to R87, D24). -/
  | unknownFirstByte (b : Byte)
  /-- Rows begin with the first byte and none goes on with the second: 0F with another second byte, or
  a ModRM byte with mod ≠ 11b or another opcode extension (R87, D24). -/
  | unknownSecondByte (b0 b1 : Byte)
deriving DecidableEq, Repr

/-- The bytes that modify the instruction after them. PRESUMED: R84 names their kinds, not their
values; only the NAME of the refusal depends on the list (log entry 18, safe). -/
def modifierBytes : List Byte :=
  [0x26, 0x2E, 0x36, 0x3E, 0x64, 0x65, 0x66, 0x67, 0xF0, 0xF2, 0xF3]

/-- The first bytes of the rows that fix bits of a second byte. -/
def twoByteStarts : List Byte := [0x0F, 0x8B, 0x89, 0x3B, 0x39, 0xF7]

/-- The name of the rejection of a sequence that fits no row. -/
def rejection : List Byte → DecodeError
  | [] => .truncated
  | b0 :: rest =>
    if modifierBytes.contains b0 then .prefixByte b0
    else if twoByteStarts.contains b0 then
      match rest with
      | [] => .truncated
      | b1 :: _ => .unknownSecondByte b0 b1
    else .unknownFirstByte b0

/-! ### Decoder and encoder -/

/-- The row of the table a sequence begins with. -/
def opcodeRow (bytes : List Byte) : Option OpRow := opcodeTable.find? (fun row => row.fits bytes)

/-- Decode the instruction at the head of a byte sequence and give the bytes after it (R87). -/
def decode (bytes : List Byte) : Except DecodeError (Instr × List Byte) :=
  match opcodeRow bytes with
  | none => .error (rejection bytes)
  | some row =>
    if bytes.length < row.length then .error .truncated
    else .ok (row.form.instr bytes, bytes.drop row.length)

/-- The bytes of an instruction in address order (R83, R200). MOV and CMP between registers have two
encodings; this is the one the table lists first, 8B and 3B (log entry 31). -/
def encode : Instr → List Byte
  | .cpuid => [0x0F, 0xA2]
  | .syscall => [0x0F, 0x05]
  | .sysret => [0x0F, 0x07]
  | .pushfd => [0x9C]
  | .popfd => [0x9D]
  | .pushR32 r => [0x50 + r.number.zeroExtend 8]
  | .popR32 r => [0x58 + r.number.zeroExtend 8]
  | .movR32R32 a b => [0x8B, modRm a.number b.number]
  | .movR32Imm32 r imm => (0xB8 + r.number.zeroExtend 8) :: imm32Bytes imm
  | .xorEaxImm32 imm => 0x35 :: imm32Bytes imm
  | .cmpR32R32 a b => [0x3B, modRm a.number b.number]
  | .testR32Imm32 r imm => 0xF7 :: modRm 0 r.number :: imm32Bytes imm
  | .jzRel8 rel => [0x74, rel]
  | .jnzRel8 rel => [0x75, rel]

/-- The second encoding of MOV (89 /r, R206) and of CMP (39 /r, R209), `reg` and `rm` exchanged; for
every other instruction the one encoding it has. -/
def encodeAlternative : Instr → List Byte
  | .movR32R32 a b => [0x89, modRm b.number a.number]
  | .cmpR32R32 a b => [0x39, modRm b.number a.number]
  | i => encode i

/-! ### The table's numbering of an instruction's bits (log entry 28) -/

/-- The whole bytes of an `nbits`-bit number, most significant first: the table's numbering, where
byte 0 is the most significant byte of the `match_bytes` bytes (R81, R91). -/
def bytesHighFirst (nbits w : Nat) : List Byte :=
  (List.range ((nbits + 7) / 8)).reverse.map fun k => BitVec.ofNat 8 (w >>> (8 * k))

/-- The same bytes, least significant first. -/
def bytesLowFirst (nbits w : Nat) : List Byte :=
  (List.range ((nbits + 7) / 8)).map fun k => BitVec.ofNat 8 (w >>> (8 * k))

/-- Pad with zero bytes up to the longest instruction. -/
def padBytes (bytes : List Byte) : List Byte :=
  bytes ++ List.replicate (Instr.maxLength - bytes.length) 0

/-- The bytes, in address order, of an instruction whose leading bits are the number `w`. The table
numbers byte 0 highest (R81, R91); a number that begins no instruction in that order and does in the
other is laid out in the other. -/
def tableBytes (nbits w : Nat) : List Byte :=
  let high := padBytes (bytesHighFirst nbits w)
  let low := padBytes (bytesLowFirst nbits w)
  if (opcodeRow high).isNone && (opcodeRow low).isSome then low else high

/-- The instruction the decoder reads from an instruction whose bits the table numbers as `w`. -/
def decodeTableWord (nbits w : Nat) : Option Instr :=
  match decode (tableBytes nbits w) with
  | .ok (i, _) => some i
  | .error _ => none

end Sys2Proof
end

