-- ==== Sys2Proof/Machine/State.lean ====
section
/-! DEFINITION. The state of the machine (10_state.md section 8), the reasons a step can stop, and the
state after reset. State is plain data. The spec gives no reset value of anything (R40, R260): every
value of `State.reset` is the model's choice, named in log entries 1 to 10 and 17. -/

namespace Sys2Proof

/-- DESIGN CHOICE (log entry 8): the open values of the AMD-K6+ 3D model 9 at reset, all zero, with the
smallest largest extended function R157 allows. -/
def M9Values.reset : M9Values where
  largestStd := 0
  signatureHigh := 0
  stdFeatures := 0
  largestExtAbove := ⟨0, by decide⟩
  amdSignatureHigh := 0
  generation := 0
  extFeatures := 0
  name2 := ⟨0, 0, 0, 0⟩
  name3 := ⟨0, 0, 0, 0⟩
  name4 := ⟨0, 0, 0, 0⟩
  tlbInfo := 0
  l1dInfo := 0
  l1iInfo := 0

/-- DESIGN CHOICE (log entries 8, 9): the configuration `State.reset` carries: the processor the test
vectors take unless they say otherwise (95_test_vectors.md, Conventions), stepping 0, and the flag
positions that R8 gives as general knowledge. -/
def Config.reset : Config where
  proc := .k6_3dM8
  stepping := 0
  am486Model := 0
  m9 := M9Values.reset
  sceBit := 0
  ifBit := 9
  vmBit := 17

namespace Machine

/-- The attributes of a segment's descriptor cache (R28, D21): two named constants and any other
value. -/
inductive SegAttr where
  /-- `ATTR_CS_FLAT`: a code segment that is "Read-only". -/
  | csFlat
  /-- `ATTR_SS_FLAT`: a data segment that is "Read/Write and Expand-Up". -/
  | ssFlat
  /-- `ATTR_OTHER(v)`: a value loaded by an instruction outside the spec. -/
  | other (v : Nat)
deriving DecidableEq, Repr

/-- A segment register: the visible selector (R27) and the on-chip descriptor cache (R28). -/
structure SegReg where
  sel   : Selector
  base  : Word
  /-- The offset of the last byte, so that "4 Gbyte" is FFFF_FFFFh (R28, D20). -/
  limit : Word
  attr  : SegAttr
deriving DecidableEq, Repr

/-- Memory: the bytes that differ from what an unlisted address reads as, by rising linear address
(Machine/Ops.lean gives the operations and the canonical form). -/
abbrev Memory := List Host.Cell

/-- A set of addresses: strictly rising. -/
abbrev AddrSet := List Nat

/-- The machine (10_state.md section 8). -/
structure State where
  /-- The configuration record (R8). No instruction writes it (R38, R39). Log entry 8. -/
  cfg    : Config
  /-- The general registers (R20, R21). -/
  eax    : Word
  ecx    : Word
  edx    : Word
  ebx    : Word
  esp    : Word
  ebp    : Word
  esi    : Word
  edi    : Word
  /-- The program counter (R23). -/
  eip    : Word
  /-- The flags register, held whole (R24 to R26). -/
  eflags : Word
  /-- The code and stack segment registers (R27, R28). -/
  cs     : SegReg
  ss     : SegReg
  /-- The current privilege level, apart from CS.sel[1:0] (R30, R187, D23). -/
  cpl    : BitVec 2
  /-- MSR C000_0080h (R33). -/
  efer   : MsrWord
  /-- MSR C000_0081h (R34). -/
  star   : MsrWord
  /-- The 4-Gbyte linear address space (R60). -/
  mem    : Memory
  /-- MODEL'S OWN: the addresses instructions have stored to (R73, D17). Log entry 17. -/
  written : AddrSet
  /-- MODEL'S OWN: how many free values have been drawn (R15). Log entry 10. -/
  draws  : Nat
deriving DecidableEq, Repr

/-- Why a run ends in a fault. -/
inductive Fault where
  /-- A raised exception: `Fault(vector, errcode, pc)` of R238 (D6), with the address of the faulting
  instruction. Raised by SYSCALL and SYSRET (R230 to R232). SAFE: the hardware goes on to a handler
  that no source describes; the model stops. -/
  | exception (vector : Nat) (errcode : Option Nat) (pc : Word)
deriving DecidableEq, Repr

/-- Why the model gives a step no next state and no exception. Every one is SAFE: the model stops
where the hardware may go on. -/
inductive Refusal where
  /-- An instruction that has no meaning yet. Raised by `exec`'s arms only; no arm raises it now. -/
  | notModelled (mnemonic : String)
  /-- The bytes at the program counter are no instruction of the spec. Raised by the fetch
  (R84, R85, R87; D11, D24). -/
  | encoding (reason : DecodeError)
  /-- `pc + ilen` reaches 2^32. Raised by the fetch and by every instruction (R23, D8). -/
  | nextPcPastTop
  /-- CS is not flat, so no fetch address can be formed. Raised by the fetch (R66, D21). -/
  | codeSegmentNotFlat
  /-- A byte of the instruction was stored by an earlier instruction. Raised by the fetch
  (R73, D17). -/
  | fetchOfStoredByte
  /-- SYSCALL or SYSRET on a processor without extended feature bit 11. Raised by these two
  (R190, D3). -/
  | syscallUnavailable
  /-- A sample-code instruction with EFLAGS.VM = 1. Raised by the eleven of
  43_sample_code_instructions.md (R201 (f)). -/
  | virtual8086
  /-- SS is not flat. Raised by PUSHFD, POPFD, PUSH, POP (R66, R201 (e), D21). -/
  | stackSegmentNotFlat
  /-- SS is not writable. Raised by PUSHFD, POPFD, PUSH, POP (R201 (e)). -/
  | stackSegmentNotWritable
  /-- The four bytes of a stack access wrap past FFFF_FFFFh. Raised by PUSHFD, POPFD, PUSH, POP
  (R201 (e)). -/
  | stackAccessWraps
deriving DecidableEq, Repr

/-- The outcomes of a step. -/
abbrev Result := Host.Outcome State Fault Refusal

/-- DESIGN CHOICE (log entries 1 to 8, 10, 17): the machine right after reset. The spec states no
reset value (R40); a register without a pointer in the spec is zero, EFLAGS has its always-one bit 1
(R26), and CS and SS are flat (the only segments through which the spec forms addresses, D21). -/
def State.reset : State where
  cfg := Config.reset
  eax := 0
  ecx := 0
  edx := 0
  ebx := 0
  esp := 0
  ebp := 0
  esi := 0
  edi := 0
  eip := 0
  eflags := 0x00000002
  cs := ⟨0, 0, 0xFFFFFFFF, .csFlat⟩
  ss := ⟨0, 0, 0xFFFFFFFF, .ssFlat⟩
  cpl := 0
  efer := 0
  star := 0
  mem := []
  written := []
  draws := 0

end Machine

end Sys2Proof
end

