-- ==== Sys2Proof/Machine/Ops.lean ====
section
/-! DEFINITION. The named operations over registers, memory, the stack and the model-specific
registers, the raising of an exception, the advance of the program counter and the fetch. Each
instruction's meaning is written over these. -/

namespace Sys2Proof.Machine

/-! ### General registers (R20, R21; `x[n]` of R12) -/

/-- Read a general register. None is hard-wired (R20). -/
def State.reg (s : State) : Reg → Word
  | .eax => s.eax
  | .ecx => s.ecx
  | .edx => s.edx
  | .ebx => s.ebx
  | .esp => s.esp
  | .ebp => s.ebp
  | .esi => s.esi
  | .edi => s.edi

/-- Write a general register. -/
def State.setReg (s : State) (r : Reg) (v : Word) : State :=
  match r with
  | .eax => { s with eax := v }
  | .ecx => { s with ecx := v }
  | .edx => { s with edx := v }
  | .ebx => { s with ebx := v }
  | .esp => { s with esp := v }
  | .ebp => { s with ebp := v }
  | .esi => { s with esi := v }
  | .edi => { s with edi := v }

/-- `pc <- target` (R12, R23). -/
def State.setEip (s : State) (target : Word) : State := { s with eip := target }

/-- Write EFLAGS whole (R24). -/
def State.setEflags (s : State) (v : Word) : State := { s with eflags := v }

/-- Mark `n` further free values as drawn (R15). -/
def State.useDraws (s : State) (n : Nat) : State := { s with draws := s.draws + n }

/-! ### Memory (R60, R62, R63) -/

/-- What an address that memory does not list reads as. DESIGN CHOICE (log entry 7, unsafe): the
contents of memory at the start are the platform's (R69, D13). -/
def unlistedByte : Byte := 0

/-- The byte at an address. -/
def Memory.read : Memory → Nat → Byte
  | [], _ => unlistedByte
  | (k, v) :: m, a => if k = a then v else Memory.read m a

/-- List a byte at an address, in address order, in place of what stood there. -/
def Memory.insert : Memory → Nat → Byte → Memory
  | [], a, v => [(a, v)]
  | (k, w) :: m, a, v =>
    if a < k then (a, v) :: (k, w) :: m
    else if a = k then (a, v) :: m
    else (k, w) :: Memory.insert m a v

/-- Unlist an address. -/
def Memory.erase (m : Memory) (a : Nat) : Memory := m.filter fun c => c.1 != a

/-- Write one byte; a byte equal to what an unlisted address reads as is not listed. -/
def Memory.write (m : Memory) (a : Nat) (v : Byte) : Memory :=
  if v = unlistedByte then Memory.erase m a else Memory.insert m a v

/-- The canonical form: addresses strictly rising and inside the address space, no entry equal to what
an unlisted address reads as. -/
abbrev Memory.wf (m : Memory) : Prop :=
  m.Pairwise (fun c d => c.1 < d.1) ∧ ∀ c ∈ m, c.1 < spaceSize ∧ c.2 ≠ unlistedByte

/-- `MemRead(a, 4)`: four single-byte reads, little-endian, no alignment asked (R62, R63). -/
def Memory.readWord (m : Memory) (a : Nat) : Word :=
  wordOfBytes (Memory.read m a) (Memory.read m (a + 1)) (Memory.read m (a + 2)) (Memory.read m (a + 3))

/-- `MemWrite(a, 4, v)`: four single-byte writes, little-endian, no alignment asked (R62, R63). -/
def Memory.writeWord (m : Memory) (a : Nat) (v : Word) : Memory :=
  Memory.write (Memory.write (Memory.write (Memory.write m a (wordByte v 0)) (a + 1) (wordByte v 1))
    (a + 2) (wordByte v 2)) (a + 3) (wordByte v 3)

/-- Put an address into a set of addresses. -/
def AddrSet.insert : AddrSet → Nat → AddrSet
  | [], a => [a]
  | k :: l, a => if a < k then a :: k :: l else if a = k then k :: l else k :: AddrSet.insert l a

/-- Put the four addresses from `a` on into a set of addresses. -/
def AddrSet.insertWord (l : AddrSet) (a : Nat) : AddrSet :=
  AddrSet.insert (AddrSet.insert (AddrSet.insert (AddrSet.insert l a) (a + 1)) (a + 2)) (a + 3)

/-- The canonical form of a set of addresses. -/
abbrev AddrSet.wf (l : AddrSet) : Prop := l.Pairwise (· < ·) ∧ ∀ a ∈ l, a < spaceSize

/-- An instruction's store of four bytes; the addresses are remembered for R73. -/
def State.storeWord (s : State) (a : Nat) (v : Word) : State :=
  { s with mem := Memory.writeWord s.mem a v, written := AddrSet.insertWord s.written a }

/-- Bytes placed in memory from outside the machine (D13, log entry 28), from address `a` on; bytes
past the end of the address space are dropped. They count as no instruction's store. -/
def State.loadBytes (s : State) : Nat → List Byte → State
  | _, [] => s
  | a, b :: bs =>
    if a < spaceSize then
      State.loadBytes { s with mem := Memory.write s.mem a b, written := s.written.filter (· != a) }
        (a + 1) bs
    else s

/-! ### Segments (R27, R28, R66) -/

/-- A flat segment: base 0 and limit "4 Gbytes" (R66, D20, D21). Linear address = offset. -/
def SegReg.flat (g : SegReg) : Bool := g.base == 0 && g.limit == 0xFFFFFFFF

/-- Whether a segment may be written: "Read-only" and "Read/Write" are what the two named constants
say (R28); of ATTR_OTHER(v) nothing is known, so the answer is a free value (log entry 14). -/
def SegAttr.writable : SegAttr → Bool
  | .csFlat => false
  | .ssFlat => true
  | .other v => Config.otherAttrWritable v

/-- The index field of a selector, bits [15:3] (R27). -/
def selectorIndex (sel : Selector) : BitVec 13 := sel.extractLsb' 3 13

/-- The requestor privilege level of a selector, bits [1:0] (R27). -/
def selectorRpl (sel : Selector) : BitVec 2 := sel.extractLsb' 0 2

/-- The selector of "the next descriptor in a descriptor table": plus 1000b, truncated to 16 bits
(R183, D4). -/
def nextSelector (sel : Selector) : Selector := sel + 0x0008

/-- Bits [1:0] forced to 11b, "RPL of 3" (R185). -/
def withRpl3 (sel : Selector) : Selector := sel.extractLsb' 2 14 ++ (3 : BitVec 2)

/-- The code segment SYSCALL and SYSRET force, under a selector (R184). -/
def flatCodeSegment (sel : Selector) : SegReg := ⟨sel, 0x00000000, 0xFFFFFFFF, .csFlat⟩

/-- The stack segment SYSCALL forces, under a selector (R184). -/
def flatStackSegment (sel : Selector) : SegReg := ⟨sel, 0x00000000, 0xFFFFFFFF, .ssFlat⟩

/-! ### Model-specific registers (R32 to R34) -/

/-- The number of EFER (R33). -/
def msrEfer : Word := 0xC0000080

/-- The number of STAR (R34). -/
def msrStar : Word := 0xC0000081

/-- EFER.SCE (R33). -/
def State.sce (s : State) : Bool := s.efer.getLsbD s.cfg.sceBit

/-- STAR[31:0], Target EIP Address (R34). -/
def State.starTarget (s : State) : Word := s.star.extractLsb' 0 32

/-- STAR[47:32], SYSCALL CS and SS Selector Base (R34). -/
def State.starSyscallSel (s : State) : Selector := s.star.extractLsb' 32 16

/-- STAR[63:48], SYSRET CS and SS Selector Base (R34). -/
def State.starSysretSel (s : State) : Selector := s.star.extractLsb' 48 16

/-- The value of a model-specific register, by number: two are named (R32), and on a processor without
the feature it is open whether they exist (R34, D3). -/
def State.msr (s : State) (n : Word) : Option MsrWord :=
  if !s.cfg.hasSyscall then none
  else if n = msrEfer then some s.efer
  else if n = msrStar then some s.star
  else none

/-- The HOST's write of a model-specific register between two steps (R32, D22): every 64-bit value may
be written (R34). None where no such register is named, and on a processor without the feature
(D3). -/
def State.hostWriteMsr (s : State) (n : Word) (v : MsrWord) : Option State :=
  if !s.cfg.hasSyscall then none
  else if n = msrEfer then some { s with efer := v }
  else if n = msrStar then some { s with star := v }
  else none

/-! ### Exceptions (R230 to R238) -/

/-- The two exceptions of the spec (R230). -/
inductive Exception where
  | invalidOpcode
  | generalProtection (errcode : Nat)
deriving DecidableEq, Repr

/-- The vector number (R230). -/
def Exception.vector : Exception → Nat
  | .invalidOpcode => 6
  | .generalProtection _ => 13

/-- The error code, where the exception has one (R233). -/
def Exception.errcode : Exception → Option Nat
  | .invalidOpcode => none
  | .generalProtection code => some code

/-- `raise`: TAKING AN EXCEPTION. The run ends with `Fault(vector, errcode, pc)`, `pc` being the
address of the faulting instruction, and nothing is written (R233, R237, R238; D6, D12; log entry
11). -/
def raise (e : Exception) (s : State) : Result := .fault (.exception e.vector e.errcode s.eip)

/-! ### The program counter (R12, R23) -/

/-- Give `next_pc = pc + ilen` to the rest of an instruction; refused when `pc + ilen` reaches 2^32
(R23, D8). -/
def withNextPc (ilen : Nat) (s : State) (k : Word → Result) : Result :=
  if s.eip.toNat + ilen < spaceSize then k (s.eip + BitVec.ofNat 32 ilen)
  else .refused .nextPcPastTop

/-- EFLAGS.VM (R24). -/
def State.vm (s : State) : Bool := s.eflags.getLsbD s.cfg.vmBit

/-- EFLAGS.IF (R24). -/
def State.intFlag (s : State) : Bool := s.eflags.getLsbD s.cfg.ifBit

/-- The common conditions of the sample-code instructions: EFLAGS.VM = 0 (R201 (f)) and a next program
counter below 2^32 (R23). -/
def sampleCode (ilen : Nat) (s : State) (k : Word → Result) : Result :=
  if s.vm then .refused .virtual8086 else withNextPc ilen s k

/-! ### The stack (R75, R201 (e)) -/

/-- Give the linear address of a four-byte stack access at offset `off` of SS to the rest of an
instruction: SS must be flat and writable, and the four bytes must not wrap (R201 (e), R66). -/
def stackAccess (s : State) (off : Word) (k : Nat → Result) : Result :=
  if !s.ss.flat then .refused .stackSegmentNotFlat
  else if !s.ss.attr.writable then .refused .stackSegmentNotWritable
  else if off.toNat + 4 ≤ spaceSize then k off.toNat
  else .refused .stackAccessWraps

/-- Push a value: ESP <- ESP - 4 modulo 2^32, then MemWrite(ESP, 4, v) (R202, R204). -/
def push32 (v : Word) (s : State) (k : State → Result) : Result :=
  let esp := s.esp - 4
  stackAccess s esp fun a => k ((s.storeWord a v).setReg .esp esp)

/-- Pop a value: MemRead(ESP, 4), then ESP <- ESP + 4 modulo 2^32 (R203, R205). -/
def pop32 (s : State) (k : Word → State → Result) : Result :=
  stackAccess s s.esp fun a => k (Memory.readWord s.mem a) (s.setReg .esp (s.esp + 4))

/-! ### Fetch (R65, R87, R73) -/

/-- `n` bytes of memory from address `a` on, fewer where the address space ends (R65). -/
def Memory.bytes (m : Memory) (a : Nat) : Nat → List Byte
  | 0 => []
  | n + 1 => if a < spaceSize then Memory.read m a :: Memory.bytes m (a + 1) n else []

/-- The linear address of the next instruction, CS.base + EIP (R23, R65). -/
def State.fetchAddress (s : State) : Nat := (s.cs.base + s.eip).toNat

/-- The bytes from which the next instruction is decoded. -/
def State.fetchBytes (s : State) : List Byte := Memory.bytes s.mem s.fetchAddress Instr.maxLength

/-- An instruction stored to one of the `n` bytes from address `a` on (R73). -/
def State.storedIn (s : State) (a n : Nat) : Bool :=
  s.written.any fun w => decide (a ≤ w) && decide (w < a + n)

/-- What a rejected sequence of bytes refuses. A sequence is cut short only where the address space
ends, so that its instruction would reach 2^32 (R23, D8). -/
def decodeRefusal : DecodeError → Refusal
  | .truncated => .nextPcPastTop
  | e => .encoding e

/-- Fetch and decode the instruction at the program counter: CS must be flat (D21), the bytes an
instruction of the spec (R87), none of them stored by an instruction (R73, D17). -/
def fetch (s : State) : Except Refusal Instr :=
  if !s.cs.flat then .error .codeSegmentNotFlat
  else
    match decode s.fetchBytes with
    | .error e => .error (decodeRefusal e)
    | .ok (i, _) =>
      if s.storedIn s.fetchAddress i.length then .error .fetchOfStoredByte else .ok i

end Sys2Proof.Machine
end

