-- ==== Sys2Proof/Machine/Flags.lean ====
section
/-! DEFINITION. Every flag computation of the spec: single-bit writes (R12), the laws LOGIC_FLAGS and
SUB_FLAGS (R213), the image PUSHFD pushes (R202) and the writable mask and result of POPFD (R203).
Positions: R25, R26; IF and VM are at the positions the configuration gives (log entry 9). -/

namespace Sys2Proof.Machine

/-- The positions of the flags the sample-code instructions use (R26). -/
abbrev bitCF : Nat := 0
abbrev bitPF : Nat := 2
abbrev bitAF : Nat := 4
abbrev bitZF : Nat := 6
abbrev bitSF : Nat := 7
abbrev bitOF : Nat := 11
abbrev bitRF : Nat := 16
/-- The ID flag, "bit (21)" (R25). -/
abbrev bitID : Nat := 21

/-- Write one bit of a word. -/
def setBit (e : Word) (i : Nat) (v : Bool) : Word :=
  if v then e ||| BitVec.twoPow 32 i else e &&& ~~~ BitVec.twoPow 32 i

/-- An even number of 1 bits in bits [7:0] (R213). -/
def evenParity (r : Word) : Bool :=
  !((r.getLsbD 0 ^^ r.getLsbD 1) ^^ (r.getLsbD 2 ^^ r.getLsbD 3) ^^
    ((r.getLsbD 4 ^^ r.getLsbD 5) ^^ (r.getLsbD 6 ^^ r.getLsbD 7)))

/-- ZF, SF and PF from a result (R213). -/
def resultFlags (r e : Word) : Word :=
  setBit (setBit (setBit e bitZF (r == 0)) bitSF (r.getLsbD 31)) bitPF (evenParity r)

/-- `LOGIC_FLAGS(r)`: CF and OF cleared, ZF, SF, PF from r, AF the given draw (R213). -/
def logicFlags (r : Word) (af : Bool) (e : Word) : Word :=
  setBit (setBit (setBit (resultFlags r e) bitCF false) bitOF false) bitAF af

/-- The overflow of `a - b`: `a[31] ≠ b[31] and r[31] ≠ a[31]` (R213). -/
def subOverflow (a b : Word) : Bool :=
  (a.getLsbD 31 != b.getLsbD 31) && ((a - b).getLsbD 31 != a.getLsbD 31)

/-- `SUB_FLAGS(a, b)` (R213). -/
def subFlags (a b e : Word) : Word :=
  setBit (setBit (setBit (resultFlags (a - b) e) bitCF (decide (a < b))) bitOF (subOverflow a b))
    bitAF (decide (a.extractLsb' 0 4 < b.extractLsb' 0 4))

/-- IOPL, EFLAGS[13:12] (R26). -/
def State.iopl (s : State) : BitVec 2 := s.eflags.extractLsb' 12 2

/-- The image PUSHFD pushes: EFLAGS and 00FC_FFFFh, that is bits [23:0] with RF (16) and VM (17)
cleared (R202); VM is at the configured position (log entry 9). -/
def pushfdImage (s : State) : Word :=
  s.eflags &&& 0x00FEFFFF &&& ~~~ BitVec.twoPow 32 s.cfg.vmBit

/-- The writable mask W of POPFD (R203): CF, PF, AF, ZF, SF, TF, DF, OF, NT, AC always; ID if and only
if CPUID is implemented (R25); IOPL at CPL 0 only; IF at CPL ≤ IOPL. With IF at position 9 these are
R203's 0024_7FD5h, 0024_4FD5h and 0024_4DD5h. -/
def popfdMask (s : State) : Word :=
  0x00044DD5 |||
    (if s.cfg.hasCpuid then BitVec.twoPow 32 bitID else 0) |||
    (if s.cpl = 0 then 0x00003000 else 0) |||
    (if s.cpl ≤ s.iopl then BitVec.twoPow 32 s.cfg.ifBit else 0)

/-- What POPFD leaves in EFLAGS for the popped value `v`: the bits of W from `v`, the others kept, RF
cleared (R203). -/
def popfdFlags (s : State) (v : Word) : Word :=
  ((s.eflags &&& ~~~ popfdMask s) ||| (v &&& popfdMask s)) &&& ~~~ 0x00010000

end Sys2Proof.Machine
end

