-- ==== Sys2Proof/Machine/Operands.lean ====
section
/-! DEFINITION. The operand forms beyond a plain register or immediate: the sign-extended branch
displacement (43_sample_code_instructions.md rules R211, R212). Register and immediate operands are
read from the instruction's bytes in Decode.lean (R201 (b) to (d)) and are values from then on; CPUID,
SYSCALL and SYSRET have implicit operands only (R82). -/

namespace Sys2Proof.Machine

/-- `sext_32(rel8)` (R12, R211). -/
def rel8Offset (rel : BitVec 8) : Word := rel.signExtend 32

/-- The target of a relative jump: `(next_pc + sext_32(rel8)) mod 2^32` (R211). -/
def branchTarget (next : Word) (rel : BitVec 8) : Word := next + rel8Offset rel

end Sys2Proof.Machine
end

