-- ==== Sys2Proof/Machine/Branch.lean ====
section
/-! DEFINITION. The conditional jumps of the sample code: JZ and JNZ
(43_sample_code_instructions.md rules R211, R212). -/

namespace Sys2Proof.Machine

/-- EFLAGS.ZF (R26). -/
def State.zf (s : State) : Bool := s.eflags.getLsbD bitZF

/-- A relative jump taken or not; the target is not checked (R211). -/
def jumpIf (taken : Bool) (rel : BitVec 8) (s : State) : Result :=
  sampleCode 2 s fun next => .next (s.setEip (if taken then branchTarget next rel else next))

/-- JZ rel8 (R211). -/
def execJzRel8 (rel : BitVec 8) (s : State) : Result := jumpIf s.zf rel s

/-- JNZ rel8 (R212). -/
def execJnzRel8 (rel : BitVec 8) (s : State) : Result := jumpIf (!s.zf) rel s

end Sys2Proof.Machine
end

