-- ==== Sys2Proof/Machine/Cpuid.lean ====
section
/-! DEFINITION. CPUID (40_cpuid.md rules R100 to R119). -/

namespace Sys2Proof.Machine

/-- The four draws of one CPUID execution, one per register (R15, R117). -/
def State.cpuidDraws (s : State) : Quad :=
  ⟨Config.draw32 s.draws, Config.draw32 (s.draws + 1), Config.draw32 (s.draws + 2),
    Config.draw32 (s.draws + 3)⟩

/-- EAX, EBX, ECX, EDX written at once. -/
def State.setQuad (s : State) (q : Quad) : State :=
  { s with eax := q.eax, ebx := q.ebx, ecx := q.ecx, edx := q.edx }

/-- CPUID: the function number is EAX before the instruction; all four registers are written, at every
CPL and in every mode; no flag, segment, MSR or memory is touched (R100). The invalid opcode exception
belongs to processors that do not implement it, of which the spec has none (R101, C12). -/
def execCpuid (s : State) : Result :=
  withNextPc 2 s fun next =>
    if s.cfg.hasCpuid then
      .next (((s.setQuad (s.cfg.cpuidFn s.eax s.cpuidDraws)).useDraws 4).setEip next)
    else raise .invalidOpcode s

end Sys2Proof.Machine
end

