-- ==== Sys2Proof/Machine/MoveLogic.lean ====
section
/-! DEFINITION. Register moves and logic of the sample code: MOV, XOR, CMP, TEST
(43_sample_code_instructions.md rules R206 to R210, R213). -/

namespace Sys2Proof.Machine

/-- MOV r32a, r32b (R206). -/
def execMovR32R32 (a b : Reg) (s : State) : Result :=
  sampleCode 2 s fun next => .next ((s.setReg a (s.reg b)).setEip next)

/-- MOV r32, imm32 (R207). -/
def execMovR32Imm32 (r : Reg) (imm : Word) (s : State) : Result :=
  sampleCode 5 s fun next => .next ((s.setReg r imm).setEip next)

/-- EFLAGS after LOGIC_FLAGS(r), AF being this execution's draw (R213). -/
def State.withLogicFlags (s : State) (r : Word) : State :=
  (s.setEflags (logicFlags r (Config.draw1 s.draws) s.eflags)).useDraws 1

/-- XOR EAX, imm32 (R208). -/
def execXorEaxImm32 (imm : Word) (s : State) : Result :=
  sampleCode 5 s fun next =>
    .next (((s.setReg .eax (s.eax ^^^ imm)).withLogicFlags (s.eax ^^^ imm)).setEip next)

/-- CMP r32a, r32b (R209): no register is written. -/
def execCmpR32R32 (a b : Reg) (s : State) : Result :=
  sampleCode 2 s fun next =>
    .next ((s.setEflags (subFlags (s.reg a) (s.reg b) s.eflags)).setEip next)

/-- TEST r32, imm32 (R210): no register is written. -/
def execTestR32Imm32 (r : Reg) (imm : Word) (s : State) : Result :=
  sampleCode 6 s fun next => .next ((s.withLogicFlags (s.reg r &&& imm)).setEip next)

end Sys2Proof.Machine
end

