-- ==== Sys2Proof/Machine/Stack.lean ====
section
/-! DEFINITION. The stack and flag-register transfers of the sample code: PUSHFD, POPFD, PUSH r32,
POP r32 (43_sample_code_instructions.md rules R201 to R205). -/

namespace Sys2Proof.Machine

/-- PUSHFD (R202). -/
def execPushfd (s : State) : Result :=
  sampleCode 1 s fun next => push32 (pushfdImage s) s fun t => .next (t.setEip next)

/-- POPFD (R203): the mask W is that of the state before the instruction. -/
def execPopfd (s : State) : Result :=
  sampleCode 1 s fun next => pop32 s fun v t => .next ((t.setEflags (popfdFlags s v)).setEip next)

/-- PUSH r32 (R204): the value pushed is the register's before ESP is decremented. -/
def execPushR32 (r : Reg) (s : State) : Result :=
  sampleCode 1 s fun next => push32 (s.reg r) s fun t => .next (t.setEip next)

/-- POP r32 (R205): the register is written after ESP is incremented. -/
def execPopR32 (r : Reg) (s : State) : Result :=
  sampleCode 1 s fun next => pop32 s fun v t => .next ((t.setReg r v).setEip next)

end Sys2Proof.Machine
end

