-- ==== Sys2Proof/Machine/SystemCall.lean ====
section
/-! DEFINITION. SYSCALL and SYSRET (42_syscall_sysret.md rules R180 to R191). -/

namespace Sys2Proof.Machine

/-- The common conditions of SYSCALL and SYSRET: refused on a processor without the feature (R190, D3);
Invalid opcode while EFER.SCE is 0 (R181, R231), before any check that belongs to the instruction
(R234, D5). -/
def systemCallEnabled (s : State) (k : Word → Result) : Result :=
  withNextPc 2 s fun next =>
    if !s.cfg.hasSyscall then .refused .syscallUnavailable
    else if !s.sce then raise .invalidOpcode s
    else k next

/-- SYSCALL (R182 to R184): no check of CPL or mode, no check of a selector, no memory access. -/
def execSyscall (s : State) : Result :=
  systemCallEnabled s fun next =>
    .next { s with
      ecx := next
      eip := s.starTarget
      eflags := setBit (setBit s.eflags s.cfg.ifBit false) s.cfg.vmBit false
      cs := flatCodeSegment s.starSyscallSel
      ss := flatStackSegment (nextSelector s.starSyscallSel)
      cpl := 0 }

/-- SYSRET (R185): General protection with error code 0 unless CPL = 0 (R232); of SS only the selector
is written, its RPL forced to 3. -/
def execSysret (s : State) : Result :=
  systemCallEnabled s fun _ =>
    if s.cpl ≠ 0 then raise (.generalProtection 0) s
    else
      .next { s with
        eip := s.ecx
        eflags := setBit s.eflags s.cfg.ifBit true
        cs := flatCodeSegment s.starSysretSel
        ss := { s.ss with sel := withRpl3 (nextSelector s.starSysretSel) }
        cpl := 3 }

end Sys2Proof.Machine
end

