-- ==== Sys2Proof/Machine/Dispatch.lean ====
section
/-! DEFINITION. The dispatch: one arm per instruction, each one call of its meaning. -/

namespace Sys2Proof.Machine

-- The meaning of an instruction at a state.
def exec (i : Instr) (s : State) : Host.Outcome State Fault Refusal :=
  match i with
  | .cpuid => Sys2Proof.Machine.execCpuid s
  | .syscall => Sys2Proof.Machine.execSyscall s
  | .sysret => Sys2Proof.Machine.execSysret s
  | .pushfd => Sys2Proof.Machine.execPushfd s
  | .popfd => Sys2Proof.Machine.execPopfd s
  | .pushR32 r => Sys2Proof.Machine.execPushR32 r s
  | .popR32 r => Sys2Proof.Machine.execPopR32 r s
  | .movR32R32 a b => Sys2Proof.Machine.execMovR32R32 a b s
  | .movR32Imm32 r imm => Sys2Proof.Machine.execMovR32Imm32 r imm s
  | .xorEaxImm32 imm => Sys2Proof.Machine.execXorEaxImm32 imm s
  | .cmpR32R32 a b => Sys2Proof.Machine.execCmpR32R32 a b s
  | .testR32Imm32 r imm => Sys2Proof.Machine.execTestR32Imm32 r imm s
  | .jzRel8 rel => Sys2Proof.Machine.execJzRel8 rel s
  | .jnzRel8 rel => Sys2Proof.Machine.execJnzRel8 rel s

end Sys2Proof.Machine
end

