-- ==== Sys2Proof/Machine/Step.lean ====
section
/-! DEFINITION. One step: fetch and decode the instruction at CS.base + EIP (20_memory.md rule R65),
then execute it. Every instruction advances or sets EIP itself (R12). -/

namespace Sys2Proof.Machine

/-- One step of the machine. -/
def step (s : State) : Host.Outcome State Fault Refusal :=
  match fetch s with
  | .error r => .refused r
  | .ok i => exec i s

/-- The instruction whose leading bits the opcode table numbers as `w` placed where `step` fetches, from
outside the machine; a program is loaded so (log entry 28). -/
def State.withFetchWord (s : State) (nbits w : Nat) : State :=
  s.loadBytes s.fetchAddress (tableBytes nbits w)

end Sys2Proof.Machine
end

