-- ==== Sys2Proof/Machine/CpuidLayout.lean ====
section
/-! DEFINITION. The layouts of the words CPUID returns (40_cpuid.md rules R106 to R108, R111, R112, R114,
R116): the fields of a signature, the feature flags and their reserved bits, the bytes of the vendor and
name strings, and the cache and TLB descriptors. No step uses them; they say what the words mean. -/

namespace Sys2Proof

/-! ### Signatures -/

/-- Stepping ID, bits [3:0] (R106, R111). -/
def sigStepping (w : Word) : BitVec 4 := w.extractLsb' 0 4

/-- Model, bits [7:4] (R106, R111). -/
def sigModel (w : Word) : BitVec 4 := w.extractLsb' 4 4

/-- Instruction family (R106) or generation/family (R111), bits [11:8]. -/
def sigFamily (w : Word) : BitVec 4 := w.extractLsb' 8 4

/-- The reserved bits [31:12] (R106, R111; C2). -/
def sigReserved (w : Word) : BitVec 20 := w.extractLsb' 12 20

/-! ### Feature flags -/

/-- The features the two words report (R107, R112). -/
inductive Feature where
  | fpu | virtualMode | debugging | pageSize | timeStampCounter | k86Msr | machineCheck | cmpxchg8b
  | apic | memoryTypeRange | globalPaging
  /-- CMOV, FCMOV and FCOMI in the standard word (R107, C11). -/
  | conditionalMove
  | mmx
  /-- SYSCALL and SYSRET (extended word only, R112). -/
  | syscallSysret
  /-- Integer CMOV (extended word, R112). -/
  | integerConditionalMove
  /-- FCMOV and FCOMI (extended word, R112). -/
  | floatConditionalMove
  /-- AMD-3D instructions (extended word, R112). -/
  | amd3d
deriving DecidableEq, Repr

/-- The bit of the standard feature word that reports a feature (R107); on the AMD-K5 model 0 bit 9
reports global paging extensions and bit 13 is reserved (R108). -/
def stdFeatureBit (p : Proc) : Feature → Option Nat
  | .fpu => some 0
  | .virtualMode => some 1
  | .debugging => some 2
  | .pageSize => some 3
  | .timeStampCounter => some 4
  | .k86Msr => some 5
  | .machineCheck => some 7
  | .cmpxchg8b => some 8
  | .apic => if p = .k5M0 then none else some 9
  | .memoryTypeRange => some 12
  | .globalPaging => if p = .k5M0 then some 9 else some 13
  | .conditionalMove => some 15
  | .mmx => some 23
  | .syscallSysret => none
  | .integerConditionalMove => none
  | .floatConditionalMove => none
  | .amd3d => none

/-- The bit of the extended feature word that reports a feature (R112). -/
def extFeatureBit : Feature → Option Nat
  | .fpu => some 0
  | .virtualMode => some 1
  | .debugging => some 2
  | .pageSize => some 3
  | .timeStampCounter => some 4
  | .k86Msr => some 5
  | .machineCheck => some 7
  | .cmpxchg8b => some 8
  | .apic => none
  | .memoryTypeRange => none
  | .globalPaging => some 13
  | .conditionalMove => none
  | .mmx => some 23
  | .syscallSysret => some 11
  | .integerConditionalMove => some 15
  | .floatConditionalMove => some 16
  | .amd3d => some 31

/-- A standard feature word reports a feature: every defined bit has 1 = support (R107, U16). -/
def stdFeature (p : Proc) (word : Word) (f : Feature) : Bool :=
  match stdFeatureBit p f with
  | none => false
  | some b => word.getLsbD b

/-- An extended feature word reports a feature (R112). -/
def extFeature (word : Word) (f : Feature) : Bool :=
  match extFeatureBit f with
  | none => false
  | some b => word.getLsbD b

/-- The reserved bits of the standard feature word: 6, 10-11, 14, 16-22, 24-31 (R107), and 13 on the
AMD-K5 model 0 (R108). -/
def stdReservedBits (p : Proc) : List Nat :=
  [6, 10, 11, 14, 16, 17, 18, 19, 20, 21, 22, 24, 25, 26, 27, 28, 29, 30, 31] ++
    (if p = .k5M0 then [13] else [])

/-- The reserved bits of the extended feature word: 6, 9-10, 12, 14, 17-22, 24-30 (R112). -/
def extReservedBits : List Nat :=
  [6, 9, 10, 12, 14, 17, 18, 19, 20, 21, 22, 24, 25, 26, 27, 28, 29, 30]

/-! ### Strings -/

/-- The characters a register holds, first character in bits [7:0] (R11). -/
def wordChars (w : Word) : List Byte := [wordByte w 0, wordByte w 1, wordByte w 2, wordByte w 3]

/-- The vendor identification string of function 0: EBX, EDX, ECX (R104). -/
def vendorChars (q : Quad) : List Byte := wordChars q.ebx ++ wordChars q.edx ++ wordChars q.ecx

/-- The sixteen characters one name function returns: EAX, EBX, ECX, EDX (R114). -/
def nameChars (q : Quad) : List Byte :=
  wordChars q.eax ++ wordChars q.ebx ++ wordChars q.ecx ++ wordChars q.edx

/-- `NAME[0..47]` from what functions 8000_0002h, 8000_0003h, 8000_0004h return (R114). -/
def nameString (q2 q3 q4 : Quad) : List Byte := nameChars q2 ++ nameChars q3 ++ nameChars q4

/-- The characters until a NULL is detected (R113, R114). -/
def untilNull (name : List Byte) : List Byte := name.takeWhile (· != 0)

/-! ### Cache information -/

/-- "Full associativity is indicated by a value of 0FFh" (R116). -/
def fullAssociativity : Byte := 0xFF

/-- One TLB: associativity and number of entries (R116). -/
structure TlbInfo where
  associativity : Byte
  entries       : Byte
deriving DecidableEq, Repr

/-- One L1 cache (R116). -/
structure CacheInfo where
  sizeKbytes    : Byte
  associativity : Byte
  linesPerTag   : Byte
  lineBytes     : Byte
deriving DecidableEq, Repr

/-- The data TLB of EBX of function 8000_0005h, bits [31:16] (R116). -/
def dataTlb (ebx : Word) : TlbInfo := ⟨wordByte ebx 3, wordByte ebx 2⟩

/-- The instruction TLB of EBX of function 8000_0005h, bits [15:0] (R116). -/
def instructionTlb (ebx : Word) : TlbInfo := ⟨wordByte ebx 1, wordByte ebx 0⟩

/-- The L1 cache a word describes: ECX the data cache, EDX the instruction cache (R116). -/
def l1Cache (w : Word) : CacheInfo := ⟨wordByte w 3, wordByte w 2, wordByte w 1, wordByte w 0⟩

end Sys2Proof
end

