-- ==== Sys2Proof/Safety.lean ====
section
/-! DEFINITION. What counts as a safe run, in the terms the statements use: the invariant of the machine,
the registers an instruction may leave alone, and one-step safety. -/

namespace Sys2Proof.Machine

/-- The invariant every step keeps: the flag positions of the configuration do not collide (R24 to
R26); memory and the set of stored addresses are in canonical form inside the 4-Gbyte space (R60); the
always-one bit 1 of EFLAGS is one (R26); CPL is one of the two levels the sources use (R243). -/
structure State.Inv (s : State) : Prop where
  flagsApart   : s.cfg.flagsApart
  memory       : Memory.wf s.mem
  stored       : AddrSet.wf s.written
  alwaysOne    : s.eflags.getLsbD 1 = true
  privilege    : s.cpl = 0 ∨ s.cpl = 3

/-- The state that only SYSCALL, SYSRET and the host change, and the configuration nobody changes, is
the same in both states (R32, R38, R182, R185). -/
structure SameSystem (s t : State) : Prop where
  cfg  : t.cfg = s.cfg
  cs   : t.cs = s.cs
  ss   : t.ss = s.ss
  cpl  : t.cpl = s.cpl
  efer : t.efer = s.efer
  star : t.star = s.star

/-- Every byte of memory reads as before, and no store was made. -/
structure SameMemory (s t : State) : Prop where
  bytes   : ∀ a, Memory.read t.mem a = Memory.read s.mem a
  written : t.written = s.written

/-- Every general register but those listed is unchanged. -/
def SameRegsBut (changed : List Reg) (s t : State) : Prop :=
  ∀ r, r ∉ changed → t.reg r = s.reg r

/-- Every bit of EFLAGS but those listed is unchanged. -/
def SameFlagsBut (changed : List Nat) (s t : State) : Prop :=
  ∀ i, i ∉ changed → t.eflags.getLsbD i = s.eflags.getLsbD i

/-- Every byte of memory outside the four from address `a` on reads as before. -/
def SameMemoryOutside (a : Nat) (s t : State) : Prop :=
  ∀ b, b < a ∨ a + 4 ≤ b → Memory.read t.mem b = Memory.read s.mem b

/-- An instruction of `ilen` bytes has a next program counter below 2^32 (R23, D8). -/
def Placed (ilen : Nat) (s : State) : Prop := s.eip.toNat + ilen < spaceSize

/-- The conditions of a sample-code instruction of `ilen` bytes: EFLAGS.VM = 0 (R201 (f)) and a next
program counter below 2^32 (R23). -/
structure SampleReady (ilen : Nat) (s : State) : Prop where
  vmClear : s.eflags.getLsbD s.cfg.vmBit = false
  placed  : Placed ilen s

/-- The conditions of a four-byte stack access at offset `off`: a flat, writable stack segment and no
wrap past FFFF_FFFFh (R201 (e)). -/
structure StackReady (off : Word) (s : State) : Prop where
  base     : s.ss.base = 0
  limit    : s.ss.limit = 0xFFFFFFFF
  writable : s.ss.attr.writable = true
  noWrap   : off.toNat + 4 ≤ spaceSize

/-- The conditions of SYSCALL and SYSRET: the feature is there (R180), EFER.SCE is 1 (R181), the next
program counter is below 2^32 (R23). -/
structure SystemCallReady (s : State) : Prop where
  feature : s.cfg.hasSyscall = true
  sce     : s.efer.getLsbD s.cfg.sceBit = true
  placed  : Placed 2 s

/-- The code segment is flat (R66, D21). -/
structure CodeFlat (s : State) : Prop where
  base  : s.cs.base = 0
  limit : s.cs.limit = 0xFFFFFFFF

/-- The bytes at the program counter are those of an instruction, and no instruction stored to them
(R65, R73). -/
structure CodeAt (code : List Byte) (s : State) : Prop where
  flat      : CodeFlat s
  bytes     : ∀ k, (h : k < code.length) → Memory.read s.mem (s.eip.toNat + k) = code[k]
  unwritten : ∀ k, k < code.length → s.eip.toNat + k ∉ s.written

/-- An even number of 1 bits in bits [7:0], by counting (R213). -/
def evenOnes (r : Word) : Bool := (List.range 8).countP (fun k => r.getLsbD k) % 2 == 0

/-- A step that neither faults nor is refused. -/
def State.safe (s : State) : Prop := ∃ t, step s = .next t

end Sys2Proof.Machine
end

