-- ==== Sys2Proof/Certificates/Slice0/Obligations.lean ====
section
/-! DEFINITION. The statements for the provers, from the numbered rules of spec/. -/

namespace Sys2Proof.Machine

/-! ### Vocabulary of the statements -/

/-- A register after an execution of CPUID against a cell of doc00 Table 10: a printed value, or (none)
a cell that is "Reserved" or "Undefined" and receives a draw of this execution (R15, R158). -/
def CellHolds (s t : State) (cell : Option Word) (w : Word) : Prop :=
  match cell with
  | some v => w = v
  | none => ∃ n, s.draws ≤ n ∧ n < t.draws ∧ w = Config.draw32 n

/-- A row of a table of 41_cpuid_values.md: CPUID with function number `f` on the configuration `c`
completes, whatever else the state holds, and leaves the cells in EAX, EBX, ECX, EDX. -/
def CpuidRow (c : Config) (f : Word) (a b c' d : Option Word) : Prop :=
  ∀ s : State, s.cfg = c → s.eax = f → Placed 2 s →
    ∃ t, exec .cpuid s = .next t ∧ CellHolds s t a t.eax ∧ CellHolds s t b t.ebx ∧
      CellHolds s t c' t.ecx ∧ CellHolds s t d t.edx

/-- A signature printed `...X` in doc00 Table 10: the stepping fills the last digit (R158). -/
def withStepping (c : Config) (w : Word) : Word := w ||| c.stepping.zeroExtend 32

/-- The row of function 0, the same on every processor of doc00 Table 10 (R104). -/
def VendorRow (c : Config) : Prop :=
  CpuidRow c 0x00000000 (some 0x00000001) (some 0x68747541) (some 0x444D4163) (some 0x69746E65)

/-- The rows of a processor without extended functions, but for function 1 (R142, R143). -/
def NoExtendedRows (c : Config) : Prop :=
  VendorRow c ∧ CpuidRow c 0x80000000 (some 0x00000000) none none none ∧
  ∀ f : Word, 0x80000001 ≤ f → f ≤ 0x80000005 → CpuidRow c f none none none none

/-- The rows of the functions 0, 8000_0000h and 8000_0002h to 8000_0005h of an AMD-K5 (R144 to R146).
-/
def K5Rows (c : Config) : Prop :=
  VendorRow c ∧ CpuidRow c 0x80000000 (some 0x80000005) none none none ∧
  CpuidRow c 0x80000002 (some 0x2D444D41) (some 0x7428354B) (some 0x5020296D) (some 0x65636F72) ∧
  CpuidRow c 0x80000003 (some 0x726F7373) (some 0x00000000) (some 0x00000000) (some 0x00000000) ∧
  CpuidRow c 0x80000004 (some 0x00000000) (some 0x00000000) (some 0x00000000) (some 0x00000000) ∧
  CpuidRow c 0x80000005 none (some 0x04800000) (some 0x08040120) (some 0x10040120)

/-- The same rows of the AMD-K6 models 6 and 7 (R147, R148). -/
def K6Rows (c : Config) : Prop :=
  VendorRow c ∧ CpuidRow c 0x80000000 (some 0x80000005) none none none ∧
  CpuidRow c 0x80000002 (some 0x2D444D41) (some 0x6D74364B) (some 0x202F7720) (some 0x746C756D) ∧
  CpuidRow c 0x80000003 (some 0x64656D69) (some 0x65206169) (some 0x6E657478) (some 0x6E6F6973) ∧
  CpuidRow c 0x80000004 (some 0x00000073) (some 0x00000000) (some 0x00000000) (some 0x00000000) ∧
  CpuidRow c 0x80000005 none (some 0x02800140) (some 0x20020220) (some 0x20020220)

/-- The features every processor of R151 but the Am486/Am5x86 reports: bits 0 to 5, 7 and 8. -/
def commonFeatures : List Feature :=
  [.fpu, .virtualMode, .debugging, .pageSize, .timeStampCounter, .k86Msr, .machineCheck, .cmpxchg8b]

/-- The features R151 lists for the standard word (on `K5_M0` bit 9 means global paging, R108). -/
def listedStdFeatures (c : Config) : List Feature :=
  match c.proc with
  | .am486_5x86 => [.fpu]
  | .k5M0 | .k5M1 | .k5M2 | .k5M3 => .globalPaging :: commonFeatures
  | _ => .mmx :: commonFeatures

/-- The features R151 lists for the extended word. -/
def listedExtFeatures (c : Config) : List Feature :=
  match c.proc with
  | .k5M1 | .k5M2 | .k5M3 => .globalPaging :: commonFeatures
  | .k6M7 => if c.stepping = 0 then .mmx :: commonFeatures else .syscallSysret :: .mmx :: commonFeatures
  | .k6_3dM8 => .amd3d :: .syscallSysret :: .mmx :: commonFeatures
  | _ => .mmx :: commonFeatures

/-- The characters of a text, one byte each (R11). -/
def asciiBytes (l : List Char) : List Byte := l.map fun ch => BitVec.ofNat 8 ch.toNat

/-- The processor name that the three name functions give from some draws. -/
def nameOf (c : Config) (d : Quad) : List Byte :=
  nameString (c.cpuidFn 0x80000002 d) (c.cpuidFn 0x80000003 d) (c.cpuidFn 0x80000004 d)

end Sys2Proof.Machine

open Sys2Proof Sys2Proof.Machine

/-! ### CPUID -/

/-- R100: CPUID is 0F A2; it completes at every CPL and in every mode, writes EAX, EBX, ECX and EDX
with `CPUID_FN(cfg, EAX)` for some draws, advances EIP by 2, and changes no flag, not CPL, no segment
register, no MSR and no memory. -/
def Obligations.CpuidWritesItsFunctionAndNothingElse : Prop :=
  (∀ rest, decode (0x0F :: 0xA2 :: rest) = .ok (.cpuid, rest)) ∧
  ∀ s : State, Placed 2 s → ∃ t, exec .cpuid s = .next t ∧
    (∃ d : Quad, (⟨t.eax, t.ebx, t.ecx, t.edx⟩ : Quad) = s.cfg.cpuidFn s.eax d) ∧
    t.eip = s.eip + 2 ∧ SameRegsBut [.eax, .ebx, .ecx, .edx] s t ∧ t.eflags = s.eflags ∧
    SameSystem s t ∧ SameMemory s t

/-- R104: function 0 returns "AuthenticAMD" on every processor, and 1 in EAX on every processor
but model 9. -/
def Obligations.CpuidVendorString : Prop :=
  ∀ s : State, s.eax = 0 → Placed 2 s → ∃ t, exec .cpuid s = .next t ∧
    t.ebx = 0x68747541 ∧ t.ecx = 0x444D4163 ∧ t.edx = 0x69746E65 ∧
    (s.cfg.proc ≠ .k6p_3dM9 → t.eax = 0x00000001) ∧
    wordChars t.ebx ++ wordChars t.edx ++ wordChars t.ecx =
      asciiBytes ['A', 'u', 't', 'h', 'e', 'n', 't', 'i', 'c', 'A', 'M', 'D']

/-- R141: the fields of the signature that function 1 returns, on every processor; beside it, the
reserved bits [31:12] read 0 on every processor but model 9, whose reserved bits are open (R157). -/
def Obligations.CpuidSignatureFields : Prop :=
  ∀ s : State, s.eax = 1 → Placed 2 s → ∃ t, exec .cpuid s = .next t ∧
    sigStepping t.eax = s.cfg.stepping ∧
    sigFamily t.eax = (if s.cfg.proc = .am486_5x86 then 4 else 5) ∧
    sigModel t.eax = (match s.cfg.proc with
      | .am486_5x86 => s.cfg.am486Model
      | .k5M0 => 0 | .k5M1 => 1 | .k5M2 => 2 | .k5M3 => 3
      | .k6M6 => 6 | .k6M7 => 7 | .k6_3dM8 => 8 | .k6p_3dM9 => 9) ∧
    (s.cfg.proc ≠ .k6p_3dM9 → sigReserved t.eax = 0)

/-- R142: every row of the Am486DX4 and Am5x86. -/
def Obligations.CpuidValuesAm486 : Prop :=
  ∀ c : Config, c.proc = .am486_5x86 → NoExtendedRows c ∧
    CpuidRow c 1 (some (withStepping c (0x00000400 ||| (c.am486Model.zeroExtend 32 <<< 4))))
      none none (some 0x00000001)

/-- R143: every row of the AMD-K5 model 0. -/
def Obligations.CpuidValuesK5Model0 : Prop :=
  ∀ c : Config, c.proc = .k5M0 → NoExtendedRows c ∧
    CpuidRow c 1 (some (withStepping c 0x00000500)) none none (some 0x000003BF)

/-- R144 to R146: every row of the AMD-K5 models 1, 2 and 3. -/
def Obligations.CpuidValuesK5Models123 : Prop :=
  ∀ (c : Config) (p : Proc) (sig : Word),
    (p, sig) ∈ [(Proc.k5M1, (0x00000510 : Word)), (Proc.k5M2, 0x00000520), (Proc.k5M3, 0x00000530)] →
    c.proc = p → K5Rows c ∧
      CpuidRow c 1 (some (withStepping c sig)) none none (some 0x000021BF) ∧
      CpuidRow c 0x80000001 (some (withStepping c sig)) none none (some 0x000021BF)

/-- R147: every row of the AMD-K6 model 6. -/
def Obligations.CpuidValuesK6Model6 : Prop :=
  ∀ c : Config, c.proc = .k6M6 → K6Rows c ∧
    CpuidRow c 1 (some (withStepping c 0x00000560)) none none (some 0x008001BF) ∧
    CpuidRow c 0x80000001 (some (withStepping c 0x00000660)) none none (some 0x008001BF)

/-- R148 (and the A stepping of R156): every row of the AMD-K6 model 7, whose extended feature word is
0080_01BFh on the A stepping (0) and 0080_09BFh on the others. -/
def Obligations.CpuidValuesK6Model7 : Prop :=
  ∀ c : Config, c.proc = .k6M7 → K6Rows c ∧
    CpuidRow c 1 (some (withStepping c 0x00000570)) none none (some 0x008001BF) ∧
    (c.stepping = 0 →
      CpuidRow c 1 (some 0x00000570) none none (some 0x008001BF) ∧
      CpuidRow c 0x80000001 (some 0x00000670) none none (some 0x008001BF)) ∧
    (c.stepping ≠ 0 →
      CpuidRow c 0x80000001 (some (withStepping c 0x00000670)) none none (some 0x008009BF))

/-- R149: every row of the AMD-K6 3D model 8. -/
def Obligations.CpuidValuesK63DModel8 : Prop :=
  ∀ c : Config, c.proc = .k6_3dM8 → VendorRow c ∧
    CpuidRow c 1 (some (withStepping c 0x00000580)) none none (some 0x008001BF) ∧
    CpuidRow c 0x80000000 (some 0x80000005) none none none ∧
    CpuidRow c 0x80000001 (some (withStepping c 0x00000680)) none none (some 0x808009BF) ∧
    CpuidRow c 0x80000002 (some 0x2D444D41) (some 0x7428364B) (some 0x3320296D) (some 0x72702044) ∧
    CpuidRow c 0x80000003 (some 0x7365636F) (some 0x00726F73) (some 0x00000000) (some 0x00000000) ∧
    CpuidRow c 0x80000004 (some 0x00000000) (some 0x00000000) (some 0x00000000) (some 0x00000000) ∧
    CpuidRow c 0x80000005 none (some 0x02800140) (some 0x20020220) (some 0x20020220)

/-- From R157 (derived; decision D18, log entry 30): every word of the AMD-K6+ 3D model 9. The sources
settle the vendor string, EAX[11:0] = 59sh of function 1, and a largest extended function of at least
8000_0005h; that the low byte of the signature of 8000_0001h is 9sh is read from the layout of R111 (log
entry 30). Every other word is the configuration's (`M9_VALUES`), or a draw where the register is
"Reserved" (R117). -/
def Obligations.CpuidValuesModel9 : Prop :=
  ∀ s : State, s.cfg.proc = .k6p_3dM9 → Placed 2 s → ∃ t, exec .cpuid s = .next t ∧
    (s.eax = 0x00000000 → t.eax = s.cfg.m9.largestStd ∧ t.ebx = 0x68747541 ∧ t.ecx = 0x444D4163 ∧
      t.edx = 0x69746E65) ∧
    (s.eax = 0x00000001 → t.eax.extractLsb' 0 12 = 0x59#8 ++ s.cfg.stepping ∧
      t.eax.extractLsb' 12 20 = s.cfg.m9.signatureHigh ∧ CellHolds s t none t.ebx ∧
      CellHolds s t none t.ecx ∧ t.edx = s.cfg.m9.stdFeatures) ∧
    (s.eax = 0x80000000 → 0x80000005 ≤ t.eax ∧
      t.eax.toNat = 0x80000005 + s.cfg.m9.largestExtAbove.val ∧ CellHolds s t none t.ebx ∧
      CellHolds s t none t.ecx ∧ CellHolds s t none t.edx) ∧
    (s.eax = 0x80000001 → t.eax.extractLsb' 0 8 = 0x9#4 ++ s.cfg.stepping ∧
      t.eax.extractLsb' 8 4 = s.cfg.m9.generation ∧
      t.eax.extractLsb' 12 20 = s.cfg.m9.amdSignatureHigh ∧ CellHolds s t none t.ebx ∧
      CellHolds s t none t.ecx ∧ t.edx = s.cfg.m9.extFeatures) ∧
    (s.eax = 0x80000002 → (⟨t.eax, t.ebx, t.ecx, t.edx⟩ : Quad) = s.cfg.m9.name2) ∧
    (s.eax = 0x80000003 → (⟨t.eax, t.ebx, t.ecx, t.edx⟩ : Quad) = s.cfg.m9.name3) ∧
    (s.eax = 0x80000004 → (⟨t.eax, t.ebx, t.ecx, t.edx⟩ : Quad) = s.cfg.m9.name4) ∧
    (s.eax = 0x80000005 → CellHolds s t none t.eax ∧ t.ebx = s.cfg.m9.tlbInfo ∧
      t.ecx = s.cfg.m9.l1dInfo ∧ t.edx = s.cfg.m9.l1iInfo)

/-- From R118, R119 (the decisions D1, D2; log entry 29): a function number no source defines, and an
extended function on a processor without them, raise no exception and leave four draws of this
execution, one per register. -/
def Obligations.CpuidUndefinedFunctionsDraw : Prop :=
  ∀ s : State, Placed 2 s → s.eax ≠ 0 → s.eax ≠ 1 → s.eax ≠ 0x80000000 →
    (s.cfg.hasExt = true → ¬ (0x80000001 ≤ s.eax ∧ s.eax ≤ 0x80000005)) →
    ∃ t, exec .cpuid s = .next t ∧ ∃ n, s.draws ≤ n ∧ n + 3 < t.draws ∧
      t.eax = Config.draw32 n ∧ t.ebx = Config.draw32 (n + 1) ∧ t.ecx = Config.draw32 (n + 2) ∧
      t.edx = Config.draw32 (n + 3)

/-- From R100 (privilege none, every mode) and R25 (whatever the ID bit): the four results depend on
nothing but the configuration, EAX and the draws. That two executions with the same draw counter also
agree in their "Reserved" and "Undefined" registers is the model's choice (log entry 10, DESIGN CHOICE;
unsafe for a claim that compares two runs): R15 and R100 (corner case 3) let two draws differ. -/
def Obligations.CpuidDependsOnFunctionNumberOnly : Prop :=
  ∀ s s' : State, s'.cfg = s.cfg → s'.eax = s.eax → s'.draws = s.draws → Placed 2 s → Placed 2 s' →
    ∃ t t', exec .cpuid s = .next t ∧ exec .cpuid s' = .next t' ∧
      t'.eax = t.eax ∧ t'.ebx = t.ebx ∧ t'.ecx = t.ecx ∧ t'.edx = t.edx

/-- From R151 (derived) with R107, R108, R112: on every processor of doc00 Table 10 the feature words
report exactly the listed features, and every reserved bit is 0. -/
def Obligations.FeatureWordsDecoded : Prop :=
  ∀ c : Config, c.proc ≠ .k6p_3dM9 →
    (∀ f, stdFeature c.proc c.stdFeatures f = decide (f ∈ listedStdFeatures c)) ∧
    (∀ b ∈ stdReservedBits c.proc, c.stdFeatures.getLsbD b = false) ∧
    ∀ x, c.extData = some x →
      (∀ f, extFeature x.features f = decide (f ∈ listedExtFeatures c)) ∧
      ∀ b ∈ extReservedBits, x.features.getLsbD b = false

/-- From R152 (derived) with R113, R114: the three name functions give 48 bytes, the processor's name
up to the first NULL and NULLs after it. -/
def Obligations.NameStringsDecoded : Prop :=
  ∀ (c : Config) (d : Quad),
    (c.proc = .k5M1 ∨ c.proc = .k5M2 ∨ c.proc = .k5M3 →
      nameOf c d = asciiBytes ['A', 'M', 'D', '-', 'K', '5', '(', 't', 'm', ')', ' ', 'P', 'r', 'o',
        'c', 'e', 's', 's', 'o', 'r'] ++ List.replicate 28 0) ∧
    (c.proc = .k6M6 ∨ c.proc = .k6M7 →
      nameOf c d = asciiBytes ['A', 'M', 'D', '-', 'K', '6', 't', 'm', ' ', 'w', '/', ' ', 'm', 'u',
        'l', 't', 'i', 'm', 'e', 'd', 'i', 'a', ' ', 'e', 'x', 't', 'e', 'n', 's', 'i', 'o', 'n',
        's'] ++ List.replicate 15 0) ∧
    (c.proc = .k6_3dM8 →
      nameOf c d = asciiBytes ['A', 'M', 'D', '-', 'K', '6', '(', 't', 'm', ')', ' ', '3', 'D', ' ',
        'p', 'r', 'o', 'c', 'e', 's', 's', 'o', 'r'] ++ List.replicate 25 0)

/-- From R153 (derived) with R116: the cache and TLB words of function 8000_0005h decoded. -/
def Obligations.CacheInformationDecoded : Prop :=
  ∀ (c : Config) (d : Quad),
    (c.proc = .k5M1 ∨ c.proc = .k5M2 ∨ c.proc = .k5M3 →
      dataTlb (c.cpuidFn 0x80000005 d).ebx = ⟨4, 128⟩ ∧
      instructionTlb (c.cpuidFn 0x80000005 d).ebx = ⟨0, 0⟩ ∧
      l1Cache (c.cpuidFn 0x80000005 d).ecx = ⟨8, 4, 1, 32⟩ ∧
      l1Cache (c.cpuidFn 0x80000005 d).edx = ⟨16, 4, 1, 32⟩) ∧
    (c.proc = .k6M6 ∨ c.proc = .k6M7 ∨ c.proc = .k6_3dM8 →
      dataTlb (c.cpuidFn 0x80000005 d).ebx = ⟨2, 128⟩ ∧
      instructionTlb (c.cpuidFn 0x80000005 d).ebx = ⟨1, 64⟩ ∧
      l1Cache (c.cpuidFn 0x80000005 d).ecx = ⟨32, 2, 2, 32⟩ ∧
      l1Cache (c.cpuidFn 0x80000005 d).edx = ⟨32, 2, 2, 32⟩)

/-! ### SYSCALL and SYSRET -/

/-- R182, R184: SYSCALL (0F 05), its whole effect, at every CPL, in every mode, for every STAR. The sum
modulo 2^16 is the spec's decision D4 (log entry 13), the limit FFFF_FFFFh its decision D20 (log entry
14). -/
def Obligations.SyscallEntersTheOperatingSystem : Prop :=
  (∀ rest, decode (0x0F :: 0x05 :: rest) = .ok (.syscall, rest)) ∧
  ∀ s : State, SystemCallReady s → ∃ t, exec .syscall s = .next t ∧
    t.ecx = s.eip + 2 ∧ t.eip = s.star.extractLsb' 0 32 ∧
    t.eflags.getLsbD s.cfg.ifBit = false ∧ t.eflags.getLsbD s.cfg.vmBit = false ∧
    SameFlagsBut [s.cfg.ifBit, s.cfg.vmBit] s t ∧
    t.cs = ⟨s.star.extractLsb' 32 16, 0x00000000, 0xFFFFFFFF, .csFlat⟩ ∧
    t.ss = ⟨s.star.extractLsb' 32 16 + 8, 0x00000000, 0xFFFFFFFF, .ssFlat⟩ ∧
    t.cpl = 0 ∧ SameRegsBut [.ecx] s t ∧ SameMemory s t ∧
    t.efer = s.efer ∧ t.star = s.star ∧ t.cfg = s.cfg

/-- R185: SYSRET (0F 07), its whole effect at CPL 0; of SS only the selector is written, VM is not. The
sum modulo 2^16 is the spec's decision D4 (log entry 13), the limit FFFF_FFFFh its decision D20 (log
entry 14). -/
def Obligations.SysretReturnsToTheApplication : Prop :=
  (∀ rest, decode (0x0F :: 0x07 :: rest) = .ok (.sysret, rest)) ∧
  ∀ s : State, SystemCallReady s → s.cpl = 0 → ∃ t, exec .sysret s = .next t ∧
    t.eip = s.ecx ∧ t.eflags.getLsbD s.cfg.ifBit = true ∧ SameFlagsBut [s.cfg.ifBit] s t ∧
    t.cs = ⟨s.star.extractLsb' 48 16, 0x00000000, 0xFFFFFFFF, .csFlat⟩ ∧
    t.ss.sel.extractLsb' 2 14 = (s.star.extractLsb' 48 16 + 8).extractLsb' 2 14 ∧
    t.ss.sel.extractLsb' 0 2 = 3 ∧
    t.ss.base = s.ss.base ∧ t.ss.limit = s.ss.limit ∧ t.ss.attr = s.ss.attr ∧
    t.cpl = 3 ∧ SameRegsBut [] s t ∧ SameMemory s t ∧
    t.efer = s.efer ∧ t.star = s.star ∧ t.cfg = s.cfg

/-- From R183: the stack selector is the next one in the table: the index field one higher (modulo its
13 bits, the spec's decision D4, log entry 13), bits [2:0] unchanged; for SYSRET bit 2 is unchanged
and the RPL is forced. -/
def Obligations.StackSelectorIsTheNextDescriptor : Prop :=
  ∀ s t : State,
    (exec .syscall s = .next t →
      t.ss.sel.extractLsb' 3 13 = t.cs.sel.extractLsb' 3 13 + 1 ∧
      t.ss.sel.extractLsb' 0 3 = t.cs.sel.extractLsb' 0 3 ∧
      t.ss.sel.toNat = (t.cs.sel.toNat + 8) % 65536) ∧
    (exec .sysret s = .next t →
      t.ss.sel.extractLsb' 3 13 = t.cs.sel.extractLsb' 3 13 + 1 ∧
      t.ss.sel.extractLsb' 2 1 = t.cs.sel.extractLsb' 2 1)

/-- R187: after SYSCALL CPL is 0 and CS has the RPL of STAR[33:32]; after SYSRET CPL and the RPL of SS
are 3 and CS has the RPL of STAR[49:48]. -/
def Obligations.PrivilegeIsForcedApartFromSelectors : Prop :=
  ∀ s t : State,
    (exec .syscall s = .next t → t.cpl = 0 ∧ selectorRpl t.cs.sel = s.star.extractLsb' 32 2) ∧
    (exec .sysret s = .next t → t.cpl = 3 ∧ selectorRpl t.ss.sel = 3 ∧
      selectorRpl t.cs.sel = s.star.extractLsb' 48 2)

/-- From R181 and R234: while EFER.SCE is 0 both instructions raise Invalid opcode (6, no error code)
at the faulting address, whatever CPL and the mode are. The record of the exception is the spec's
decision D6 (log entry 11), the priority over CPL ≠ 0 its decision D5 (log entry 12). -/
def Obligations.SystemCallsAreInvalidWhileDisabled : Prop :=
  ∀ s : State, s.cfg.hasSyscall = true → Placed 2 s → s.efer.getLsbD s.cfg.sceBit = false →
    exec .syscall s = .fault (.exception 6 none s.eip) ∧
    exec .sysret s = .fault (.exception 6 none s.eip)

/-- From R232: SYSRET at CPL ≠ 0 raises General protection (13) with error code 0; SYSCALL never raises
it. The record of the exception is the spec's decision D6 (log entry 11). -/
def Obligations.SysretNeedsPrivilegeLevelZero : Prop :=
  (∀ s : State, SystemCallReady s → s.cpl ≠ 0 →
    exec .sysret s = .fault (.exception 13 (some 0) s.eip)) ∧
  ∀ (s : State) (e : Option Nat) (pc : Word), exec .syscall s ≠ .fault (.exception 13 e pc)

/-- From R190, the spec's decision D3 (log entry 19): on a processor without the feature both
instructions are refused, neither executed nor faulting. -/
def Obligations.SystemCallsAreRefusedWithoutTheFeature : Prop :=
  ∀ s : State, s.cfg.hasSyscall = false → Placed 2 s →
    exec .syscall s = .refused .syscallUnavailable ∧ exec .sysret s = .refused .syscallUnavailable

/-- R180: the feature is there if and only if CPUID function 8000_0001h returns EDX bit 11 = 1 (on a
processor with extended functions): on model 7 on steppings other than A, on model 8, on model 9 as its
open word says, and nowhere else. -/
def Obligations.SystemCallFeatureIsCpuidBit11 : Prop :=
  (∀ s : State, s.eax = 0x80000001 → s.cfg.hasExt = true → Placed 2 s →
    ∃ t, exec .cpuid s = .next t ∧ t.edx.getLsbD 11 = s.cfg.hasSyscall) ∧
  (∀ c : Config, c.hasExt = false → c.hasSyscall = false) ∧
  ∀ c : Config, c.hasSyscall = (match c.proc with
    | .k6M7 => decide (c.stepping ≠ 0)
    | .k6_3dM8 => true
    | .k6p_3dM9 => c.m9.extFeatures.getLsbD 11
    | _ => false)

/-- From R188 (derived from R182 and R185): a SYSCALL and a later SYSRET with ECX, the MSRs and the
stack segment undisturbed resume after the SYSCALL, at CPL 3, with IF = 1 and flat segments. -/
def Obligations.SyscallSysretPair : Prop :=
  ∀ s t u : State, exec .syscall s = .next t →
    u.cfg = t.cfg → u.ecx = t.ecx → u.efer = t.efer → u.star = t.star → u.ss = t.ss → u.cpl = 0 →
    Placed 2 u →
    ∃ v, exec .sysret u = .next v ∧ v.eip = s.eip + 2 ∧ v.cpl = 3 ∧
      v.eflags.getLsbD s.cfg.ifBit = true ∧
      v.cs = ⟨s.star.extractLsb' 48 16, 0, 0xFFFFFFFF, .csFlat⟩ ∧
      v.ss.sel.extractLsb' 2 14 = (s.star.extractLsb' 48 16 + 8).extractLsb' 2 14 ∧
      selectorRpl v.ss.sel = 3 ∧
      v.ss.base = 0 ∧ v.ss.limit = 0xFFFFFFFF ∧ v.ss.attr = .ssFlat

/-- From R245: what each level may do: CPUID and SYSCALL execute at every level, SYSRET at level 0
only. The record of the exception is the spec's decision D6 (log entry 11). -/
def Obligations.PrivilegeTable : Prop :=
  ∀ s : State, SystemCallReady s →
    (∃ t, exec .cpuid s = .next t ∧ t.cpl = s.cpl) ∧
    (∃ t, exec .syscall s = .next t ∧ t.cpl = 0) ∧
    (s.cpl = 0 → ∃ t, exec .sysret s = .next t) ∧
    (s.cpl ≠ 0 → exec .sysret s = .fault (.exception 13 (some 0) s.eip))

/-! ### The sample-code instructions -/

/-- R202: PUSHFD, 9C. The image is EFLAGS and 00FC_FFFFh where VM is bit 17; in general VM is cleared
at its configured position (log entry 9). -/
def Obligations.PushfdPushesTheFlagsImage : Prop :=
  (∀ rest, decode (0x9C :: rest) = .ok (.pushfd, rest)) ∧
  ∀ s : State, SampleReady 1 s → StackReady (s.esp - 4) s → ∃ t, exec .pushfd s = .next t ∧
    t.esp = s.esp - 4 ∧
    Memory.readWord t.mem (s.esp - 4).toNat =
      s.eflags &&& 0x00FEFFFF &&& ~~~ BitVec.twoPow 32 s.cfg.vmBit ∧
    (s.cfg.vmBit.val = 17 →
      Memory.readWord t.mem (s.esp - 4).toNat = s.eflags &&& 0x00FCFFFF) ∧
    SameMemoryOutside (s.esp - 4).toNat s t ∧ t.eip = s.eip + 1 ∧ t.eflags = s.eflags ∧
    SameRegsBut [.esp] s t ∧ SameSystem s t

/-- R203: POPFD, 9D. The writable mask W has IF at its configured position (log entry 9); with IF at
bit 9 it is the rule's three literals. -/
def Obligations.PopfdWritesTheWritableFlags : Prop :=
  (∀ rest, decode (0x9D :: rest) = .ok (.popfd, rest)) ∧
  ∀ s : State, SampleReady 1 s → StackReady s.esp s → ∃ t, exec .popfd s = .next t ∧
    t.esp = s.esp + 4 ∧
    (∀ W : Word,
      W = (0x00244DD5 ||| (if s.cpl = 0 then 0x00003000 else 0) |||
        (if s.cpl ≤ s.eflags.extractLsb' 12 2 then BitVec.twoPow 32 s.cfg.ifBit else 0)) →
      t.eflags = ((s.eflags &&& ~~~ W) ||| (Memory.readWord s.mem s.esp.toNat &&& W)) &&&
        ~~~ 0x00010000) ∧
    (s.cfg.ifBit.val = 9 → ∀ W : Word,
      W = (if s.cpl = 0 then 0x00247FD5
        else if s.cpl ≤ s.eflags.extractLsb' 12 2 then 0x00244FD5 else 0x00244DD5) →
      t.eflags = ((s.eflags &&& ~~~ W) ||| (Memory.readWord s.mem s.esp.toNat &&& W)) &&&
        ~~~ 0x00010000) ∧
    t.eip = s.eip + 1 ∧ SameRegsBut [.esp] s t ∧ SameSystem s t ∧ SameMemory s t

/-- R204: PUSH r32, 50+r, for every register; PUSH ESP pushes ESP before it is decremented. -/
def Obligations.PushStoresTheRegister : Prop :=
  ∀ r : Reg, (∀ rest, decode ((0x50 + r.number.zeroExtend 8) :: rest) = .ok (.pushR32 r, rest)) ∧
  ∀ s : State, SampleReady 1 s → StackReady (s.esp - 4) s →
    ∃ t, exec (.pushR32 r) s = .next t ∧ t.esp = s.esp - 4 ∧
      Memory.readWord t.mem (s.esp - 4).toNat = s.reg r ∧
      SameMemoryOutside (s.esp - 4).toNat s t ∧ t.eip = s.eip + 1 ∧ t.eflags = s.eflags ∧
      SameRegsBut [.esp] s t ∧ SameSystem s t

/-- R205: POP r32, 58+r, for every register; for ESP the popped value is written after the increment.
-/
def Obligations.PopLoadsTheRegister : Prop :=
  ∀ r : Reg, (∀ rest, decode ((0x58 + r.number.zeroExtend 8) :: rest) = .ok (.popR32 r, rest)) ∧
  ∀ s : State, SampleReady 1 s → StackReady s.esp s →
    ∃ t, exec (.popR32 r) s = .next t ∧ t.reg r = Memory.readWord s.mem s.esp.toNat ∧
      (r ≠ .esp → t.esp = s.esp + 4) ∧ t.eip = s.eip + 1 ∧ t.eflags = s.eflags ∧
      SameRegsBut [r, .esp] s t ∧ SameSystem s t ∧ SameMemory s t

/-- R206, R207: the two forms of MOV: between registers (8B /r or 89 /r with `reg` and `rm` exchanged)
and of an immediate (B8+r, four bytes, least significant first). -/
def Obligations.MovCopiesAndLoads : Prop :=
  (∀ a b : Reg,
    (∀ rest, decode (0x8B :: ((3 : BitVec 2) ++ a.number ++ b.number) :: rest) =
      .ok (.movR32R32 a b, rest)) ∧
    (∀ rest, decode (0x89 :: ((3 : BitVec 2) ++ b.number ++ a.number) :: rest) =
      .ok (.movR32R32 a b, rest)) ∧
    ∀ s : State, SampleReady 2 s → ∃ t, exec (.movR32R32 a b) s = .next t ∧
      t.reg a = s.reg b ∧ t.eip = s.eip + 2 ∧ t.eflags = s.eflags ∧ SameRegsBut [a] s t ∧
      SameSystem s t ∧ SameMemory s t) ∧
  ∀ (r : Reg) (imm : Word),
    (∀ rest, decode ((0xB8 + r.number.zeroExtend 8) :: imm.extractLsb' 0 8 :: imm.extractLsb' 8 8 ::
      imm.extractLsb' 16 8 :: imm.extractLsb' 24 8 :: rest) = .ok (.movR32Imm32 r imm, rest)) ∧
    ∀ s : State, SampleReady 5 s → ∃ t, exec (.movR32Imm32 r imm) s = .next t ∧
      t.reg r = imm ∧ t.eip = s.eip + 5 ∧ t.eflags = s.eflags ∧ SameRegsBut [r] s t ∧
      SameSystem s t ∧ SameMemory s t

/-- R208 with LOGIC_FLAGS: XOR EAX, imm32, 35 and the immediate. AF (bit 4) is a draw: nothing is said
of it. -/
def Obligations.XorWritesEaxAndLogicFlags : Prop :=
  ∀ imm : Word, (∀ rest, decode (0x35 :: imm.extractLsb' 0 8 :: imm.extractLsb' 8 8 ::
    imm.extractLsb' 16 8 :: imm.extractLsb' 24 8 :: rest) = .ok (.xorEaxImm32 imm, rest)) ∧
  ∀ s : State, SampleReady 5 s → ∃ t, exec (.xorEaxImm32 imm) s = .next t ∧
    t.eax = s.eax ^^^ imm ∧
    t.eflags.getLsbD 0 = false ∧ t.eflags.getLsbD 11 = false ∧
    t.eflags.getLsbD 6 = decide (s.eax ^^^ imm = 0) ∧
    t.eflags.getLsbD 7 = (s.eax ^^^ imm).getLsbD 31 ∧
    t.eflags.getLsbD 2 = evenOnes (s.eax ^^^ imm) ∧ SameFlagsBut [0, 2, 4, 6, 7, 11] s t ∧
    t.eip = s.eip + 5 ∧ SameRegsBut [.eax] s t ∧ SameSystem s t ∧ SameMemory s t

/-- R209 with SUB_FLAGS: CMP r32a, r32b, 3B /r or 39 /r with `reg` and `rm` exchanged; no register is
written. -/
def Obligations.CmpSetsTheSubtractionFlags : Prop :=
  ∀ a b : Reg,
  (∀ rest, decode (0x3B :: ((3 : BitVec 2) ++ a.number ++ b.number) :: rest) =
    .ok (.cmpR32R32 a b, rest)) ∧
  (∀ rest, decode (0x39 :: ((3 : BitVec 2) ++ b.number ++ a.number) :: rest) =
    .ok (.cmpR32R32 a b, rest)) ∧
  ∀ s : State, SampleReady 2 s → ∃ t, exec (.cmpR32R32 a b) s = .next t ∧
    t.eflags.getLsbD 0 = decide ((s.reg a).toNat < (s.reg b).toNat) ∧
    t.eflags.getLsbD 11 = decide ((s.reg a).getLsbD 31 ≠ (s.reg b).getLsbD 31 ∧
      (s.reg a - s.reg b).getLsbD 31 ≠ (s.reg a).getLsbD 31) ∧
    t.eflags.getLsbD 4 = decide ((s.reg a).toNat % 16 < (s.reg b).toNat % 16) ∧
    t.eflags.getLsbD 6 = decide (s.reg a = s.reg b) ∧
    t.eflags.getLsbD 7 = (s.reg a - s.reg b).getLsbD 31 ∧
    t.eflags.getLsbD 2 = evenOnes (s.reg a - s.reg b) ∧ SameFlagsBut [0, 2, 4, 6, 7, 11] s t ∧
    t.eip = s.eip + 2 ∧ SameRegsBut [] s t ∧ SameSystem s t ∧ SameMemory s t

/-- R210 with LOGIC_FLAGS: TEST r32, imm32, F7 /0 and the immediate; no register is written. AF is a
draw. -/
def Obligations.TestSetsTheLogicFlags : Prop :=
  ∀ (r : Reg) (imm : Word),
  (∀ rest, decode (0xF7 :: ((3 : BitVec 2) ++ (0 : BitVec 3) ++ r.number) :: imm.extractLsb' 0 8 ::
    imm.extractLsb' 8 8 :: imm.extractLsb' 16 8 :: imm.extractLsb' 24 8 :: rest) =
      .ok (.testR32Imm32 r imm, rest)) ∧
  ∀ s : State, SampleReady 6 s → ∃ t, exec (.testR32Imm32 r imm) s = .next t ∧
    t.eflags.getLsbD 0 = false ∧ t.eflags.getLsbD 11 = false ∧
    t.eflags.getLsbD 6 = decide (s.reg r &&& imm = 0) ∧
    t.eflags.getLsbD 7 = (s.reg r &&& imm).getLsbD 31 ∧
    t.eflags.getLsbD 2 = evenOnes (s.reg r &&& imm) ∧ SameFlagsBut [0, 2, 4, 6, 7, 11] s t ∧
    t.eip = s.eip + 6 ∧ SameRegsBut [] s t ∧ SameSystem s t ∧ SameMemory s t

/-- R211, R212: JZ, 74 and a displacement byte, and JNZ, 75 and a displacement byte. The displacement
is signed and relative to the next instruction; the sum is modulo 2^32; no target is checked. -/
def Obligations.ConditionalJumps : Prop :=
  ∀ rel : BitVec 8,
  (∀ rest, decode (0x74 :: rel :: rest) = .ok (.jzRel8 rel, rest)) ∧
  (∀ rest, decode (0x75 :: rel :: rest) = .ok (.jnzRel8 rel, rest)) ∧
  ∀ s : State, SampleReady 2 s →
    (∃ t, exec (.jzRel8 rel) s = .next t ∧
      t.eip = (if s.eflags.getLsbD 6 = true then BitVec.ofInt 32 (s.eip.toNat + 2 + rel.toInt)
        else s.eip + 2) ∧
      t.eflags = s.eflags ∧ SameRegsBut [] s t ∧ SameSystem s t ∧ SameMemory s t) ∧
    ∃ t, exec (.jnzRel8 rel) s = .next t ∧
      t.eip = (if s.eflags.getLsbD 6 = false then BitVec.ofInt 32 (s.eip.toNat + 2 + rel.toInt)
        else s.eip + 2) ∧
      t.eflags = s.eflags ∧ SameRegsBut [] s t ∧ SameSystem s t ∧ SameMemory s t

/-- From R201 (e), (f) (decision D21) and R23 (decision D8, log entry 16): outside its conditions a stack
instruction is refused, each time by the name of what fails: VM = 1 first, then a next program counter
at 2^32, a segment that is not flat, one that is not writable, an access that wraps. The order of the
names is the model's (log entry 35). -/
def Obligations.StackInstructionsAreRefusedOutsideTheirConditions : Prop :=
  ∀ (i : Instr) (off : State → Word),
    ((i = .pushfd ∨ ∃ r, i = .pushR32 r) ∧ off = fun s => s.esp - 4) ∨
      ((i = .popfd ∨ ∃ r, i = .popR32 r) ∧ off = fun s => s.esp) →
    ∀ s : State,
      (s.eflags.getLsbD s.cfg.vmBit = true → exec i s = .refused .virtual8086) ∧
      (s.eflags.getLsbD s.cfg.vmBit = false → ¬ Placed 1 s → exec i s = .refused .nextPcPastTop) ∧
      (SampleReady 1 s →
        (s.ss.base ≠ 0 ∨ s.ss.limit ≠ 0xFFFFFFFF → exec i s = .refused .stackSegmentNotFlat) ∧
        (s.ss.base = 0 → s.ss.limit = 0xFFFFFFFF →
          (s.ss.attr.writable = false → exec i s = .refused .stackSegmentNotWritable) ∧
          (s.ss.attr.writable = true → spaceSize < (off s).toNat + 4 →
            exec i s = .refused .stackAccessWraps)))

/-- From R200, R201 (f) (log entries 26, 35): while EFLAGS.VM is 1 every sample-code instruction is
refused as virtual8086, before anything else is looked at; the rules give it no effect there. The
order of the names is the model's (log entry 35). -/
def Obligations.SampleCodeIsRefusedInVirtual8086Mode : Prop :=
  ∀ i : Instr, i ≠ .cpuid → i ≠ .syscall → i ≠ .sysret → ∀ s : State,
    s.eflags.getLsbD s.cfg.vmBit = true → exec i s = .refused .virtual8086

/-- From R23 (decision D8, log entry 16; V3 row 11): every instruction whose EIP + length reaches 2^32
is refused as nextPcPastTop: CPUID, SYSCALL and SYSRET in every mode, the sample-code instructions
while EFLAGS.VM is 0 (with VM = 1 they are refused for that first: the order is the model's, log entry
35). -/
def Obligations.InstructionsReachingTheTopAreRefused : Prop :=
  ∀ (i : Instr) (s : State), ¬ Placed i.length s →
    (i = .cpuid ∨ i = .syscall ∨ i = .sysret ∨ s.eflags.getLsbD s.cfg.vmBit = false) →
    exec i s = .refused .nextPcPastTop

/-- Derived from R204, R205, R62: a PUSH and a POP with the stack pointer and the memory undisturbed
carry a value from one register to another and restore ESP. -/
def Obligations.PushThenPopCarriesTheValue : Prop :=
  ∀ (r q : Reg) (s t u : State), exec (.pushR32 r) s = .next t → q ≠ .esp →
    u.cfg = t.cfg → u.esp = t.esp → u.mem = t.mem → u.ss = t.ss → SampleReady 1 u →
    ∃ v, exec (.popR32 q) u = .next v ∧ v.reg q = s.reg r ∧ v.esp = s.esp

/-- From R25: the ID bit is an ordinary read-write bit on every processor of the spec: POPFD stores the
popped bit 21, at every CPL, and PUSHFD pushes bit 21 as it stands; CPUID completes whatever it is. -/
def Obligations.IdBitIsWriteable : Prop :=
  ∀ s : State, s.cfg.flagsApart →
    (SampleReady 1 s → StackReady s.esp s → ∃ t, exec .popfd s = .next t ∧
      t.eflags.getLsbD 21 = (Memory.readWord s.mem s.esp.toNat).getLsbD 21) ∧
    (SampleReady 1 s → StackReady (s.esp - 4) s → ∃ t, exec .pushfd s = .next t ∧
      (Memory.readWord t.mem t.esp.toNat).getLsbD 21 = s.eflags.getLsbD 21) ∧
    (Placed 2 s → ∃ t, exec .cpuid s = .next t ∧
      t.eflags.getLsbD 21 = s.eflags.getLsbD 21)

/-! ### Memory -/

/-- From R62, R63 (the decisions D14, D15; log entries 20, 21): four bytes little-endian at any
address, aligned or not: byte k of the value at a + k, the read is the inverse, and no other byte
changes. -/
def Obligations.MemoryIsLittleEndian : Prop :=
  ∀ (m : Memory) (a : Nat) (v : Word),
    Memory.read (Memory.writeWord m a v) a = v.extractLsb' 0 8 ∧
    Memory.read (Memory.writeWord m a v) (a + 1) = v.extractLsb' 8 8 ∧
    Memory.read (Memory.writeWord m a v) (a + 2) = v.extractLsb' 16 8 ∧
    Memory.read (Memory.writeWord m a v) (a + 3) = v.extractLsb' 24 8 ∧
    Memory.readWord (Memory.writeWord m a v) a = v ∧
    ∀ b, b < a ∨ a + 4 ≤ b → Memory.read (Memory.writeWord m a v) b = Memory.read m b

/-- Derived from R64, R75: only PUSHFD and PUSH store, and only to the four bytes below the stack
pointer. -/
def Obligations.OnlyPushesStore : Prop :=
  ∀ (i : Instr) (s t : State), exec i s = .next t →
    ((i ≠ .pushfd ∧ ∀ r, i ≠ .pushR32 r) → SameMemory s t) ∧
    ((i = .pushfd ∨ ∃ r, i = .pushR32 r) → SameMemoryOutside (s.esp - 4).toNat s t)

/-- Derived from R73 (D17): a byte that an instruction has changed is never fetched as part of an
instruction that executes, however many steps later. -/
def Obligations.ChangedBytesAreNeverFetched : Prop :=
  ∀ (i : Instr) (s t : State) (a : Nat), exec i s = .next t →
    Memory.read t.mem a ≠ Memory.read s.mem a →
    ∀ (n : Nat) (u v : State), Host.Core.run Sys2Proof.core n t = .next u → step u = .next v →
      ∃ j, fetch u = .ok j ∧ (a < u.fetchAddress ∨ u.fetchAddress + j.length ≤ a)

/-! ### Encoding -/

/-- From R83, R200 (R81: decision D19, log entry 20): decoding the encoding of any instruction, with
every operand, gives it back and leaves the bytes after it. -/
def Obligations.DecodeOfEncode : Prop :=
  ∀ (i : Instr) (rest : List Byte), decode (encode i ++ rest) = .ok (i, rest)

/-- From R87 (derived; decision D24, log entry 18): the decoder accepts nothing but the listed
encodings: what decodes is the encoding of the instruction it decodes to, or its second encoding. -/
def Obligations.DecodeAcceptsOnlyTheTable : Prop :=
  ∀ (bytes rest : List Byte) (i : Instr), decode bytes = .ok (i, rest) →
    bytes = encode i ++ rest ∨ bytes = encodeAlternative i ++ rest

/-- From R83, R200, R202 to R212: some words written out from the encodings, the samples' among them.
-/
def Obligations.SampleWordsDecode : Prop :=
  decode [0x0F, 0xA2] = .ok (.cpuid, []) ∧
  decode [0x0F, 0x05] = .ok (.syscall, []) ∧
  decode [0x0F, 0x07] = .ok (.sysret, []) ∧
  decode [0x9C] = .ok (.pushfd, []) ∧
  decode [0x9D] = .ok (.popfd, []) ∧
  decode [0x50] = .ok (.pushR32 .eax, []) ∧
  decode [0x58] = .ok (.popR32 .eax, []) ∧
  decode [0x8B, 0xD8] = .ok (.movR32R32 .ebx .eax, []) ∧
  decode [0xB8, 0x01, 0x00, 0x00, 0x80] = .ok (.movR32Imm32 .eax 0x80000001, []) ∧
  decode [0x35, 0x00, 0x00, 0x20, 0x00] = .ok (.xorEaxImm32 0x00200000, []) ∧
  decode [0x3B, 0xC3] = .ok (.cmpR32R32 .eax .ebx, []) ∧
  decode [0xF7, 0xC2, 0x00, 0x08, 0x00, 0x00] = .ok (.testR32Imm32 .edx 0x00000800, []) ∧
  decode [0x74, 0x10] = .ok (.jzRel8 0x10, []) ∧
  decode [0x75, 0x05] = .ok (.jnzRel8 0x05, [])

/-- From R84, R85, R87 (the decisions D11, D24; log entry 18): bytes that are no instruction of the
spec are refused: a first byte of no row (a modifying byte among them), 0F with another second byte, a
ModRM byte of another form. -/
def Obligations.OtherBytesAreRefused : Prop :=
  ∀ s : State, CodeFlat s → ∀ b0 b1 : Byte, Memory.read s.mem s.eip.toNat = b0 →
    (b0 ∉ ([0x0F, 0x9C, 0x9D, 0x35, 0x74, 0x75, 0x8B, 0x89, 0x3B, 0x39, 0xF7] : List Byte) →
      b0.extractLsb' 3 5 ≠ 0x0A → b0.extractLsb' 3 5 ≠ 0x0B → b0.extractLsb' 3 5 ≠ 0x17 →
      ∃ e, step s = .refused (.encoding e)) ∧
    (s.eip.toNat + 1 < spaceSize → Memory.read s.mem (s.eip.toNat + 1) = b1 →
      (b0 = 0x0F → b1 ∉ ([0xA2, 0x05, 0x07] : List Byte) → ∃ e, step s = .refused (.encoding e)) ∧
      (b0 ∈ ([0x8B, 0x89, 0x3B, 0x39] : List Byte) → b1.extractLsb' 6 2 ≠ 3 →
        ∃ e, step s = .refused (.encoding e)) ∧
      (b0 = 0xF7 → b1.extractLsb' 3 5 ≠ 0x18 → ∃ e, step s = .refused (.encoding e)))

/-! ### Steps -/

/-- A step runs the decoded instruction: when the bytes at the program counter decode to an instruction
in a flat code segment, none of them stored by an instruction, the step is its execution. -/
def Obligations.StepExecutesTheDecodedInstruction : Prop :=
  ∀ (s : State) (i : Instr) (rest : List Byte), CodeFlat s → decode s.fetchBytes = .ok (i, rest) →
    (∀ k, k < i.length → s.eip.toNat + k ∉ s.written) → step s = exec i s

/-- From R65, R12: with the encoding of a well-formed instruction in memory at EIP, in a flat code
segment, the step is that instruction's execution; either encoding of MOV and CMP. -/
def Obligations.StepExecutesTheInstructionInMemory : Prop :=
  ∀ (s : State) (i : Instr), i.wellFormedAt s.eip = true →
    (CodeAt (encode i) s ∨ CodeAt (encodeAlternative i) s) → step s = exec i s

/-- Derived from R23 (D8), R66 (D21), R73 (D17): a step that goes on has fetched a whole instruction
below 2^32 through a flat code segment, and no byte of it had been stored. -/
def Obligations.StepsKeepTheFetchConditions : Prop :=
  ∀ s t : State, step s = .next t → CodeFlat s ∧ ∃ i, fetch s = .ok i ∧
    i.wellFormedAt s.eip = true ∧ ∀ k, k < i.length → s.eip.toNat + k ∉ s.written

/-- Derived from R23, R182, R185, R211, R212: where control goes after each instruction. -/
def Obligations.ControlGoesWhereTheRulesSay : Prop :=
  ∀ (i : Instr) (s t : State), exec i s = .next t →
    (i = .syscall → t.eip = s.star.extractLsb' 0 32) ∧
    (i = .sysret → t.eip = s.ecx) ∧
    (∀ rel, i = .jzRel8 rel ∨ i = .jnzRel8 rel →
      t.eip = s.eip + 2 ∨ t.eip = BitVec.ofInt 32 (s.eip.toNat + 2 + rel.toInt)) ∧
    ((i ≠ .syscall ∧ i ≠ .sysret ∧ ∀ rel, i ≠ .jzRel8 rel ∧ i ≠ .jnzRel8 rel) →
      t.eip = s.eip + BitVec.ofNat 32 i.length)

/-! ### Whole-machine rules -/

/-- From R230 (the record is decision D6, log entry 11): the exceptions of the machine are two: every
fault of a step is Invalid opcode of SYSCALL or SYSRET with EFER.SCE = 0, or General protection with
error code 0 of SYSRET with CPL ≠ 0, at the address of that instruction. -/
def Obligations.OnlyTheTwoExceptionsAreRaised : Prop :=
  ∀ (s : State) (r : Fault), step s = .fault r →
    ((fetch s = .ok .syscall ∨ fetch s = .ok .sysret) ∧ s.efer.getLsbD s.cfg.sceBit = false ∧
      r = .exception 6 none s.eip) ∨
    (fetch s = .ok .sysret ∧ s.efer.getLsbD s.cfg.sceBit = true ∧ s.cpl ≠ 0 ∧
      r = .exception 13 (some 0) s.eip)

/-- Derived from R32 (D22), R182, R185 and U10: no instruction writes EFER or STAR or changes the
configuration, and only SYSCALL and SYSRET write CPL, CS and SS. -/
def Obligations.OnlySystemCallsChangeTheSystemState : Prop :=
  ∀ (i : Instr) (s t : State), exec i s = .next t →
    t.efer = s.efer ∧ t.star = s.star ∧ t.cfg = s.cfg ∧
    (i ≠ .syscall → i ≠ .sysret → t.cpl = s.cpl ∧ t.cs = s.cs ∧ t.ss = s.ss)

/-- Derived from R239, R203, R182, R185: IF changes only by SYSCALL (to 0), by SYSRET (to 1), and by
POPFD where CPL ≤ IOPL. -/
def Obligations.InterruptFlagChangesOnlyByThree : Prop :=
  ∀ (i : Instr) (s t : State), exec i s = .next t → s.cfg.flagsApart →
    t.eflags.getLsbD s.cfg.ifBit ≠ s.eflags.getLsbD s.cfg.ifBit →
    (i = .syscall ∧ t.eflags.getLsbD s.cfg.ifBit = false) ∨
    (i = .sysret ∧ t.eflags.getLsbD s.cfg.ifBit = true) ∨
    (i = .popfd ∧ s.cpl ≤ s.eflags.extractLsb' 12 2)

/-- Derived from R244, R182: in any run of the model from a state outside level 0, level 0 is entered
only by an enabled SYSCALL, at the entry point and under the selector STAR held at the start, with
interrupts disabled and Virtual-8086 mode left. R244 speaks only as far as the spec covers entry; that
nothing else enters level 0 rests on D7 (log entry 23: no interrupt is modelled, unsafe wherever IF = 1),
and that EFER and STAR are still those of the start rests on D22 (log entry 24: only the host writes
them, between steps; such a write is no step of these runs). -/
def Obligations.LevelZeroIsEnteredOnlyThroughStar : Prop :=
  ∀ (n : Nat) (s t : State), Host.Core.run Sys2Proof.core n s = .next t → s.cpl ≠ 0 → t.cpl = 0 →
    ∃ (k : Nat) (u v : State), k < n ∧ Host.Core.run Sys2Proof.core k s = .next u ∧ u.cpl ≠ 0 ∧
      fetch u = .ok .syscall ∧ step u = .next v ∧ v.cpl = 0 ∧ s.efer.getLsbD s.cfg.sceBit = true ∧
      v.eip = s.star.extractLsb' 0 32 ∧ v.cs.sel = s.star.extractLsb' 32 16 ∧
      v.eflags.getLsbD s.cfg.ifBit = false ∧ v.eflags.getLsbD s.cfg.vmBit = false

/-- Every step keeps the invariant of the machine (Safety.lean): canonical memory inside the 4-Gbyte
space (R60), the always-one bit of EFLAGS (R26), CPL 0 or 3 (R243), flag positions apart. -/
def Obligations.StepKeepsTheInvariant : Prop :=
  ∀ s t : State, s.Inv → step s = .next t → t.Inv

/-- The model's reset state, whose values are its own (log entries 1 to 8, 10, 17: the spec states
none), satisfies the invariant. -/
def Obligations.ResetSatisfiesTheInvariant : Prop := State.reset.Inv

/-- Derived from R32 to R34 (D22): where the feature is there the host can write any 64-bit value to
EFER and STAR by number, reads it back, and changes nothing else; no other register is named. -/
def Obligations.HostWritesTheNamedMsrs : Prop :=
  ∀ (s : State) (n : Word) (v : MsrWord), s.cfg.hasSyscall = true →
    (n = 0xC0000080 → s.hostWriteMsr n v = some { s with efer := v } ∧
      ∃ t, s.hostWriteMsr n v = some t ∧ t.msr n = some v) ∧
    (n = 0xC0000081 → s.hostWriteMsr n v = some { s with star := v } ∧
      ∃ t, s.hostWriteMsr n v = some t ∧ t.msr n = some v) ∧
    (n ≠ 0xC0000080 → n ≠ 0xC0000081 → s.hostWriteMsr n v = none ∧ s.msr n = none)
end

