-- ==== Sys2Proof/Laws/Memory.lean ====
section
/-! SUPPORT. The laws of memory and of the set of stored addresses: reading after a write, what a write
leaves alone, and that every operation keeps the canonical form. -/

namespace Sys2Proof.Machine

/-! ### Reading after a write of one byte -/

theorem Memory.read_insert (m : Memory) (a b : Nat) (v : Byte) :
    Memory.read (Memory.insert m a v) b = if b = a then v else Memory.read m b := by
  induction m with
  | nil => by_cases h : a = b <;> simp [Memory.insert, Memory.read, h, eq_comm]
  | cons c m ih =>
    obtain ⟨k, w⟩ := c
    simp only [Memory.insert]
    split
    · by_cases h : a = b <;> simp [Memory.read, h, eq_comm]
    · split
      · subst a
        by_cases h : k = b <;> simp [Memory.read, h, Ne.symm]
      · rename_i h1 h2
        simp only [Memory.read, ih]
        by_cases h : k = b
        · subst h; simp [Ne.symm h2]
        · simp [h]

theorem Memory.read_erase (m : Memory) (a b : Nat) :
    Memory.read (Memory.erase m a) b = if b = a then unlistedByte else Memory.read m b := by
  induction m with
  | nil => simp [Memory.erase, Memory.read]
  | cons c m ih =>
    obtain ⟨k, w⟩ := c
    have ih' : Memory.read (m.filter fun c => c.1 != a) b = _ := ih
    by_cases h : k = a
    · subst h
      by_cases hb : b = k
      · subst hb; simpa [Memory.erase] using ih'
      · simp [Memory.erase, Memory.read, ih', hb, Ne.symm hb]
    · by_cases hb : k = b
      · subst hb; simp [Memory.erase, Memory.read, h]
      · simp [Memory.erase, Memory.read, h, hb, ih']

/-- A byte read after a byte written: the byte written at its address, the old byte elsewhere. -/
@[simp] theorem Memory.read_write (m : Memory) (a b : Nat) (v : Byte) :
    Memory.read (Memory.write m a v) b = if b = a then v else Memory.read m b := by
  unfold Memory.write
  split
  · rename_i h; rw [Memory.read_erase, h]
  · exact Memory.read_insert m a b v

/-! ### Words -/

/-- A byte read after four bytes written. -/
theorem Memory.read_writeWord (m : Memory) (a b : Nat) (v : Word) :
    Memory.read (Memory.writeWord m a v) b =
      if b = a + 3 then wordByte v 3 else if b = a + 2 then wordByte v 2
      else if b = a + 1 then wordByte v 1 else if b = a then wordByte v 0 else Memory.read m b := by
  simp [Memory.writeWord]

/-- The bytes outside a stored word are unchanged. -/
theorem Memory.read_writeWord_outside (m : Memory) (a b : Nat) (v : Word) (h : b < a ∨ a + 4 ≤ b) :
    Memory.read (Memory.writeWord m a v) b = Memory.read m b := by
  rw [Memory.read_writeWord]
  simp [show b ≠ a + 3 by omega, show b ≠ a + 2 by omega, show b ≠ a + 1 by omega,
    show b ≠ a by omega]

/-- The byte of a stored word at its place. -/
theorem Memory.read_writeWord_inside (m : Memory) (a k : Nat) (v : Word) (h : k < 4) :
    Memory.read (Memory.writeWord m a v) (a + k) = wordByte v k := by
  rw [Memory.read_writeWord]
  obtain rfl | rfl | rfl | rfl : k = 0 ∨ k = 1 ∨ k = 2 ∨ k = 3 := by omega
  all_goals simp

/-- Assembling the bytes of a word gives the word. -/
@[simp] theorem wordOfBytes_wordByte (v : Word) :
    wordOfBytes (wordByte v 0) (wordByte v 1) (wordByte v 2) (wordByte v 3) = v := by
  apply BitVec.eq_of_getLsbD_eq
  intro i hi
  simp only [wordOfBytes, wordByte, BitVec.getLsbD_append, BitVec.getLsbD_extractLsb']
  split
  · simp [*]
  · split
    · simp [*, show 8 + (i - 8) = i by omega]
    · split
      · simp [*, show 16 + (i - 8 - 8) = i by omega]
      · simp [*, show i - 8 - 8 - 8 < 8 by omega, show 24 + (i - 8 - 8 - 8) = i by omega]

/-- The bytes of an assembled word. -/
theorem wordByte_wordOfBytes (b0 b1 b2 b3 : Byte) :
    wordByte (wordOfBytes b0 b1 b2 b3) 0 = b0 ∧ wordByte (wordOfBytes b0 b1 b2 b3) 1 = b1 ∧
    wordByte (wordOfBytes b0 b1 b2 b3) 2 = b2 ∧ wordByte (wordOfBytes b0 b1 b2 b3) 3 = b3 := by
  refine ⟨?_, ?_, ?_, ?_⟩ <;> apply BitVec.eq_of_getLsbD_eq <;> intro i hi <;>
    simp only [wordOfBytes, wordByte, BitVec.getLsbD_append, BitVec.getLsbD_extractLsb'] <;>
    simp [hi, show ¬ 8 + i < 8 by omega, show ¬ 16 + i < 8 by omega, show ¬ 24 + i < 8 by omega,
      show 8 + i - 8 = i by omega, show 16 + i - 8 = 8 + i by omega,
      show 24 + i - 8 = 16 + i by omega]

/-- A word read where one was stored is that word. -/
theorem Memory.readWord_writeWord (m : Memory) (a : Nat) (v : Word) :
    Memory.readWord (Memory.writeWord m a v) a = v := by
  have h := fun k (hk : k < 4) => Memory.read_writeWord_inside m a k v hk
  have h0 := h 0 (by omega)
  rw [Nat.add_zero] at h0
  rw [Memory.readWord, h0, h 1 (by omega), h 2 (by omega), h 3 (by omega), wordOfBytes_wordByte]

/-! ### The canonical form -/

theorem Memory.mem_insert {m : Memory} {a : Nat} {v : Byte} {c : Host.Cell}
    (h : c ∈ Memory.insert m a v) : c = (a, v) ∨ c ∈ m := by
  induction m with
  | nil => simpa [Memory.insert] using h
  | cons d m ih =>
    obtain ⟨k, w⟩ := d
    simp only [Memory.insert] at h
    split at h
    · simpa using h
    · split at h
      · rcases List.mem_cons.1 h with h | h
        · exact .inl h
        · exact .inr (List.mem_cons_of_mem _ h)
      · rcases List.mem_cons.1 h with h | h
        · exact .inr (h ▸ List.mem_cons_self)
        · exact (ih h).imp_right (List.mem_cons_of_mem _)

theorem Memory.insert_rising {m : Memory} {a : Nat} {v : Byte}
    (h : m.Pairwise fun c d => c.1 < d.1) :
    (Memory.insert m a v).Pairwise fun c d => c.1 < d.1 := by
  induction m with
  | nil => simp [Memory.insert]
  | cons d m ih =>
    obtain ⟨k, w⟩ := d
    obtain ⟨hk, hm⟩ := List.pairwise_cons.1 h
    simp only [Memory.insert]
    split
    · rename_i hak
      refine List.pairwise_cons.2 ⟨fun c hc => ?_, h⟩
      rcases List.mem_cons.1 hc with rfl | hc
      · exact hak
      · exact lt_trans hak (hk c hc)
    · split
      · rename_i hak
        exact List.pairwise_cons.2 ⟨fun c hc => hak ▸ hk c hc, hm⟩
      · rename_i h1 h2
        refine List.pairwise_cons.2 ⟨fun c hc => ?_, ih hm⟩
        rcases Memory.mem_insert hc with rfl | hc
        · simp only; omega
        · exact hk c hc

/-- Writing a byte keeps the canonical form. -/
theorem Memory.wf_write {m : Memory} {a : Nat} (v : Byte) (h : Memory.wf m) (ha : a < spaceSize) :
    Memory.wf (Memory.write m a v) := by
  unfold Memory.write
  split
  · exact ⟨h.1.filter _, fun c hc => h.2 c (List.mem_of_mem_filter hc)⟩
  · rename_i hv
    refine ⟨Memory.insert_rising h.1, fun c hc => ?_⟩
    rcases Memory.mem_insert hc with rfl | hc
    · exact ⟨ha, hv⟩
    · exact h.2 c hc

/-- Storing a word keeps the canonical form. -/
theorem Memory.wf_writeWord {m : Memory} {a : Nat} (v : Word) (h : Memory.wf m)
    (ha : a + 4 ≤ spaceSize) : Memory.wf (Memory.writeWord m a v) := by
  refine Memory.wf_write _ (Memory.wf_write _ (Memory.wf_write _ (Memory.wf_write _ h ?_) ?_) ?_) ?_
  all_goals omega

/-! ### Sets of addresses -/

@[simp] theorem AddrSet.mem_insert {l : AddrSet} {a b : Nat} :
    b ∈ AddrSet.insert l a ↔ b = a ∨ b ∈ l := by
  induction l with
  | nil => simp [AddrSet.insert]
  | cons k l ih =>
    simp only [AddrSet.insert]
    split
    · simp
    · split
      · rename_i h; subst h; simp
      · simp only [List.mem_cons, ih]; tauto

theorem AddrSet.mem_insertWord {l : AddrSet} {a b : Nat} :
    b ∈ AddrSet.insertWord l a ↔ (a ≤ b ∧ b < a + 4) ∨ b ∈ l := by
  simp only [AddrSet.insertWord, AddrSet.mem_insert]
  constructor
  · rintro (h | h | h | h | h)
    · exact .inl (by omega)
    · exact .inl (by omega)
    · exact .inl (by omega)
    · exact .inl (by omega)
    · exact .inr h
  · rintro (h | h)
    · have : b = a + 3 ∨ b = a + 2 ∨ b = a + 1 ∨ b = a := by omega
      tauto
    · tauto

theorem AddrSet.wf_insert {l : AddrSet} {a : Nat} (h : AddrSet.wf l) (ha : a < spaceSize) :
    AddrSet.wf (AddrSet.insert l a) := by
  refine ⟨?_, fun b hb => ?_⟩
  · have hl := h.1
    clear h
    induction l with
    | nil => simp [AddrSet.insert]
    | cons k l ih =>
      obtain ⟨hk, hm⟩ := List.pairwise_cons.1 hl
      simp only [AddrSet.insert]
      split
      · rename_i hak
        refine List.pairwise_cons.2 ⟨fun c hc => ?_, hl⟩
        rcases List.mem_cons.1 hc with rfl | hc
        · exact hak
        · exact lt_trans hak (hk c hc)
      · split
        · exact hl
        · refine List.pairwise_cons.2 ⟨fun c hc => ?_, ih hm⟩
          rcases AddrSet.mem_insert.1 hc with rfl | hc
          · omega
          · exact hk c hc
  · rcases AddrSet.mem_insert.1 hb with rfl | hb
    · exact ha
    · exact h.2 b hb

/-- Remembering a stored word keeps the canonical form. -/
theorem AddrSet.wf_insertWord {l : AddrSet} {a : Nat} (h : AddrSet.wf l) (ha : a + 4 ≤ spaceSize) :
    AddrSet.wf (AddrSet.insertWord l a) := by
  refine AddrSet.wf_insert (AddrSet.wf_insert (AddrSet.wf_insert (AddrSet.wf_insert h ?_) ?_) ?_) ?_
  all_goals omega

/-- Loading bytes from outside keeps both canonical forms. -/
theorem State.loadBytes_wf (bytes : List Byte) : ∀ (s : State) (a : Nat),
    Memory.wf s.mem → AddrSet.wf s.written →
    Memory.wf (s.loadBytes a bytes).mem ∧ AddrSet.wf (s.loadBytes a bytes).written := by
  induction bytes with
  | nil => intro s a hm hw; exact ⟨hm, hw⟩
  | cons b bytes ih =>
    intro s a hm hw
    simp only [State.loadBytes]
    split
    · rename_i ha
      exact ih _ _ (Memory.wf_write b hm ha)
        ⟨hw.1.filter _, fun c hc => hw.2 c (List.mem_of_mem_filter hc)⟩
    · exact ⟨hm, hw⟩

end Sys2Proof.Machine
end

