-- ==== Sys2Proof/Laws/Decode.lean ====
section
/-! SUPPORT. The fields of bytes and the assembly of immediates, for proofs about decoding. -/

namespace Sys2Proof

@[simp] theorem byteAt_zero (b : Byte) (l : List Byte) : byteAt (b :: l) 0 = b := rfl

@[simp] theorem byteAt_succ (b : Byte) (l : List Byte) (k : Nat) :
    byteAt (b :: l) (k + 1) = byteAt l k := rfl

/-- Registers and their numbers correspond (R201 (b)). -/
@[simp] theorem Reg.ofNumber_number (r : Reg) : Reg.ofNumber r.number = r := by
  cases r <;> rfl

@[simp] theorem Reg.number_ofNumber (n : BitVec 3) : (Reg.ofNumber n).number = n := by
  revert n; decide

/-- A ModRM byte with mod = 11b gives back its fields (R201 (c)). -/
theorem modRm_fields : ∀ reg rm : BitVec 3,
    regField (modRm reg rm) = reg ∧ lowField (modRm reg rm) = rm := by decide

/-- A byte whose two high bits are 11b is the ModRM byte of its fields (R201 (c)). -/
theorem modRm_of_fields : ∀ b : Byte, b.extractLsb' 6 2 = 3 → modRm (regField b) (lowField b) = b := by
  decide

/-- A one-byte opcode with a register in its low bits gives back the register (R201 (b)). -/
theorem lowField_opcode (r : Reg) :
    lowField (0x50 + r.number.zeroExtend 8) = r.number ∧
    lowField (0x58 + r.number.zeroExtend 8) = r.number ∧
    lowField (0xB8 + r.number.zeroExtend 8) = r.number := by
  cases r <;> decide

/-- An immediate is assembled from its bytes (R201 (d)). -/
theorem imm32At_imm32Bytes (v : Word) (b : Byte) (rest : List Byte) :
    imm32At (b :: imm32Bytes v ++ rest) 1 = v :=
  Machine.wordOfBytes_wordByte v

/-- The same after two bytes. -/
theorem imm32At_imm32Bytes_two (v : Word) (b c : Byte) (rest : List Byte) :
    imm32At (b :: c :: imm32Bytes v ++ rest) 2 = v :=
  Machine.wordOfBytes_wordByte v

/-- The bytes of an assembled immediate. -/
theorem imm32Bytes_wordOfBytes (b0 b1 b2 b3 : Byte) :
    imm32Bytes (wordOfBytes b0 b1 b2 b3) = [b0, b1, b2, b3] := by
  obtain ⟨h0, h1, h2, h3⟩ := Machine.wordByte_wordOfBytes b0 b1 b2 b3
  simp [imm32Bytes, h0, h1, h2, h3]

/-! ### The opcode table -/

/-- Two bytes under a mask, byte by byte. -/
theorem pair_and (b c m n : Byte) :
    (b.toNat * 256 + c.toNat) &&& (m.toNat * 256 + n.toNat) =
      (b &&& m).toNat * 256 + (c &&& n).toNat := by
  have h : ∀ x y : Byte, x.toNat * 256 + y.toNat = (x ++ y).toNat := fun x y => by
    rw [BitVec.toNat_append, Nat.shiftLeft_eq, Nat.mul_comm, ← Nat.two_pow_add_eq_or_of_lt y.isLt]
  rw [h, h, h, ← BitVec.toNat_and, BitVec.and_append]

/-- A row that fixes bits of one byte. -/
theorem fits_byte (P M : Nat) (p m : Byte) (hP : p.toNat = P) (hM : m.toNat = M) (n : Nat)
    (f : OpForm) (b : Byte) (l : List Byte) : (OpRow.mk P M 1 n f).fits (b :: l) = decide (b &&& m = p) := by
  subst hP hM
  rw [Bool.eq_iff_iff]
  simp [OpRow.fits, headNumber, ← BitVec.toNat_and, ← BitVec.toNat_inj]

/-- A row that fixes bits of two bytes. -/
theorem fits_pair (P M : Nat) (p q m n : Byte) (hP : p.toNat * 256 + q.toNat = P)
    (hM : m.toNat * 256 + n.toNat = M) (k : Nat) (f : OpForm) (b c : Byte) (l : List Byte) :
    (OpRow.mk P M 2 k f).fits (b :: c :: l) = decide (b &&& m = p ∧ c &&& n = q) := by
  subst hP hM
  have h1 := (b &&& m).isLt
  have h2 := (c &&& n).isLt
  have h3 := p.isLt
  have h4 := q.isLt
  simp only [OpRow.fits, headNumber, List.length_cons, show ¬ l.length + 1 + 1 < 2 by omega, if_false,
    List.take_succ_cons, List.take_zero, List.foldl_cons, List.foldl_nil, Nat.zero_mul, Nat.zero_add,
    pair_and, ← BitVec.toNat_inj]
  rw [Bool.eq_iff_iff]
  simp only [beq_iff_eq, decide_eq_true_eq]
  omega

/-- No row that fixes bits of two bytes begins a single byte. -/
theorem fits_pair_single (p m k : Nat) (f : OpForm) (b : Byte) :
    (OpRow.mk p m 2 k f).fits [b] = decide False := rfl

/-- The first row that fits, one row at a time. -/
theorem find_row {row : OpRow} {rows : List OpRow} {bytes : List Byte} {q : Prop} [Decidable q]
    (h : row.fits bytes = decide q) : (row :: rows).find? (fun r => r.fits bytes) =
      if q then some row else rows.find? fun r => r.fits bytes := by
  rw [List.find?_cons, h]
  by_cases hq : q <;> simp [hq]

/-- What the masks of the table ask of a byte. -/
theorem masked_byte (b : Byte) : b &&& 0xFF = b ∧
    ((b &&& 0xF8 = 0x50) = (b.extractLsb' 3 5 = 0x0A)) ∧
    ((b &&& 0xF8 = 0x58) = (b.extractLsb' 3 5 = 0x0B)) ∧
    ((b &&& 0xF8 = 0xB8) = (b.extractLsb' 3 5 = 0x17)) ∧
    ((b &&& 0xF8 = 0xC0) = (b.extractLsb' 3 5 = 0x18)) ∧
    ((b &&& 0xC0 = 0xC0) = (b.extractLsb' 6 2 = 3)) := by
  simp only [eq_iff_iff]
  revert b
  decide

/-- The row that two bytes select. -/
theorem opcodeRow_pair (b c : Byte) (l : List Byte) : opcodeRow (b :: c :: l) =
    if b = 0x0F ∧ c = 0xA2 then some ⟨0x0FA2, 0xFFFF, 2, 2, .cpuid⟩
    else if b = 0x0F ∧ c = 0x05 then some ⟨0x0F05, 0xFFFF, 2, 2, .syscall⟩
    else if b = 0x0F ∧ c = 0x07 then some ⟨0x0F07, 0xFFFF, 2, 2, .sysret⟩
    else if b = 0x9C then some ⟨0x9C, 0xFF, 1, 1, .pushfd⟩
    else if b = 0x9D then some ⟨0x9D, 0xFF, 1, 1, .popfd⟩
    else if b.extractLsb' 3 5 = 0x0A then some ⟨0x50, 0xF8, 1, 1, .pushR32⟩
    else if b.extractLsb' 3 5 = 0x0B then some ⟨0x58, 0xF8, 1, 1, .popR32⟩
    else if b = 0x8B ∧ c.extractLsb' 6 2 = 3 then some ⟨0x8BC0, 0xFFC0, 2, 2, .movRegRm⟩
    else if b = 0x89 ∧ c.extractLsb' 6 2 = 3 then some ⟨0x89C0, 0xFFC0, 2, 2, .movRmReg⟩
    else if b.extractLsb' 3 5 = 0x17 then some ⟨0xB8, 0xF8, 1, 5, .movImm⟩
    else if b = 0x35 then some ⟨0x35, 0xFF, 1, 5, .xorEax⟩
    else if b = 0x3B ∧ c.extractLsb' 6 2 = 3 then some ⟨0x3BC0, 0xFFC0, 2, 2, .cmpRegRm⟩
    else if b = 0x39 ∧ c.extractLsb' 6 2 = 3 then some ⟨0x39C0, 0xFFC0, 2, 2, .cmpRmReg⟩
    else if b = 0xF7 ∧ c.extractLsb' 3 5 = 0x18 then some ⟨0xF7C0, 0xFFF8, 2, 6, .testImm⟩
    else if b = 0x74 then some ⟨0x74, 0xFF, 1, 2, .jz⟩
    else if b = 0x75 then some ⟨0x75, 0xFF, 1, 2, .jnz⟩
    else none := by
  unfold opcodeRow opcodeTable
  rw [find_row (fits_pair 0x0FA2 0xFFFF 0x0F 0xA2 0xFF 0xFF rfl rfl ..),
    find_row (fits_pair 0x0F05 0xFFFF 0x0F 0x05 0xFF 0xFF rfl rfl ..),
    find_row (fits_pair 0x0F07 0xFFFF 0x0F 0x07 0xFF 0xFF rfl rfl ..),
    find_row (fits_byte 0x9C 0xFF 0x9C 0xFF rfl rfl ..),
    find_row (fits_byte 0x9D 0xFF 0x9D 0xFF rfl rfl ..),
    find_row (fits_byte 0x50 0xF8 0x50 0xF8 rfl rfl ..),
    find_row (fits_byte 0x58 0xF8 0x58 0xF8 rfl rfl ..),
    find_row (fits_pair 0x8BC0 0xFFC0 0x8B 0xC0 0xFF 0xC0 rfl rfl ..),
    find_row (fits_pair 0x89C0 0xFFC0 0x89 0xC0 0xFF 0xC0 rfl rfl ..),
    find_row (fits_byte 0xB8 0xF8 0xB8 0xF8 rfl rfl ..),
    find_row (fits_byte 0x35 0xFF 0x35 0xFF rfl rfl ..),
    find_row (fits_pair 0x3BC0 0xFFC0 0x3B 0xC0 0xFF 0xC0 rfl rfl ..),
    find_row (fits_pair 0x39C0 0xFFC0 0x39 0xC0 0xFF 0xC0 rfl rfl ..),
    find_row (fits_pair 0xF7C0 0xFFF8 0xF7 0xC0 0xFF 0xF8 rfl rfl ..),
    find_row (fits_byte 0x74 0xFF 0x74 0xFF rfl rfl ..),
    find_row (fits_byte 0x75 0xFF 0x75 0xFF rfl rfl ..), List.find?_nil]
  simp only [masked_byte]
/-- The row that the last byte of the address space selects. -/
theorem opcodeRow_single (b : Byte) : opcodeRow [b] =
    if b = 0x9C then some ⟨0x9C, 0xFF, 1, 1, .pushfd⟩
    else if b = 0x9D then some ⟨0x9D, 0xFF, 1, 1, .popfd⟩
    else if b.extractLsb' 3 5 = 0x0A then some ⟨0x50, 0xF8, 1, 1, .pushR32⟩
    else if b.extractLsb' 3 5 = 0x0B then some ⟨0x58, 0xF8, 1, 1, .popR32⟩
    else if b.extractLsb' 3 5 = 0x17 then some ⟨0xB8, 0xF8, 1, 5, .movImm⟩
    else if b = 0x35 then some ⟨0x35, 0xFF, 1, 5, .xorEax⟩
    else if b = 0x74 then some ⟨0x74, 0xFF, 1, 2, .jz⟩
    else if b = 0x75 then some ⟨0x75, 0xFF, 1, 2, .jnz⟩
    else none := by
  unfold opcodeRow opcodeTable
  rw [find_row (fits_pair_single ..),
    find_row (fits_pair_single ..),
    find_row (fits_pair_single ..),
    find_row (fits_byte 0x9C 0xFF 0x9C 0xFF rfl rfl ..),
    find_row (fits_byte 0x9D 0xFF 0x9D 0xFF rfl rfl ..),
    find_row (fits_byte 0x50 0xF8 0x50 0xF8 rfl rfl ..),
    find_row (fits_byte 0x58 0xF8 0x58 0xF8 rfl rfl ..),
    find_row (fits_pair_single ..),
    find_row (fits_pair_single ..),
    find_row (fits_byte 0xB8 0xF8 0xB8 0xF8 rfl rfl ..),
    find_row (fits_byte 0x35 0xFF 0x35 0xFF rfl rfl ..),
    find_row (fits_pair_single ..),
    find_row (fits_pair_single ..),
    find_row (fits_pair_single ..),
    find_row (fits_byte 0x74 0xFF 0x74 0xFF rfl rfl ..),
    find_row (fits_byte 0x75 0xFF 0x75 0xFF rfl rfl ..), List.find?_nil]
  simp only [masked_byte, if_false]

/-- The decoder never gives more bytes back than it got. -/
theorem decode_rest_length {bytes rest : List Byte} {i : Instr} (h : decode bytes = .ok (i, rest)) :
    rest.length ≤ bytes.length := by
  unfold decode at h
  split at h
  · cases h
  · split at h
    · cases h
    · cases h
      simp

end Sys2Proof
end

