-- ==== Sys2Proof/Laws/State.lean ====
section
/-! SUPPORT. One lemma per field per named update of the state, so that no proof unfolds a record
update. -/

namespace Sys2Proof.Machine

/-! ### setReg -/

@[simp] theorem State.setReg_cfg (s : State) (r : Reg) (v : Word) : (s.setReg r v).cfg = s.cfg := by
  cases r <;> rfl

@[simp] theorem State.setReg_eip (s : State) (r : Reg) (v : Word) : (s.setReg r v).eip = s.eip := by
  cases r <;> rfl

@[simp] theorem State.setReg_eflags (s : State) (r : Reg) (v : Word) : (s.setReg r v).eflags = s.eflags := by
  cases r <;> rfl

@[simp] theorem State.setReg_cs (s : State) (r : Reg) (v : Word) : (s.setReg r v).cs = s.cs := by
  cases r <;> rfl

@[simp] theorem State.setReg_ss (s : State) (r : Reg) (v : Word) : (s.setReg r v).ss = s.ss := by
  cases r <;> rfl

@[simp] theorem State.setReg_cpl (s : State) (r : Reg) (v : Word) : (s.setReg r v).cpl = s.cpl := by
  cases r <;> rfl

@[simp] theorem State.setReg_efer (s : State) (r : Reg) (v : Word) : (s.setReg r v).efer = s.efer := by
  cases r <;> rfl

@[simp] theorem State.setReg_star (s : State) (r : Reg) (v : Word) : (s.setReg r v).star = s.star := by
  cases r <;> rfl

@[simp] theorem State.setReg_mem (s : State) (r : Reg) (v : Word) : (s.setReg r v).mem = s.mem := by
  cases r <;> rfl

@[simp] theorem State.setReg_written (s : State) (r : Reg) (v : Word) : (s.setReg r v).written = s.written := by
  cases r <;> rfl

@[simp] theorem State.setReg_draws (s : State) (r : Reg) (v : Word) : (s.setReg r v).draws = s.draws := by
  cases r <;> rfl

/-- Reading a register after a write of one. -/
@[simp] theorem State.reg_setReg (s : State) (r q : Reg) (v : Word) :
    (s.setReg r v).reg q = if q = r then v else s.reg q := by
  cases r <;> cases q <;> rfl

/-! The registers by name are `reg` at their number. -/

theorem State.eax_eq_reg (s : State) : s.eax = s.reg .eax := rfl

theorem State.ecx_eq_reg (s : State) : s.ecx = s.reg .ecx := rfl

theorem State.edx_eq_reg (s : State) : s.edx = s.reg .edx := rfl

theorem State.ebx_eq_reg (s : State) : s.ebx = s.reg .ebx := rfl

theorem State.esp_eq_reg (s : State) : s.esp = s.reg .esp := rfl

theorem State.ebp_eq_reg (s : State) : s.ebp = s.reg .ebp := rfl

theorem State.esi_eq_reg (s : State) : s.esi = s.reg .esi := rfl

theorem State.edi_eq_reg (s : State) : s.edi = s.reg .edi := rfl

@[simp] theorem State.setReg_eax (s : State) (r : Reg) (v : Word) :
    (s.setReg r v).eax = if .eax = r then v else s.eax := s.reg_setReg r .eax v

@[simp] theorem State.setReg_ecx (s : State) (r : Reg) (v : Word) :
    (s.setReg r v).ecx = if .ecx = r then v else s.ecx := s.reg_setReg r .ecx v

@[simp] theorem State.setReg_edx (s : State) (r : Reg) (v : Word) :
    (s.setReg r v).edx = if .edx = r then v else s.edx := s.reg_setReg r .edx v

@[simp] theorem State.setReg_ebx (s : State) (r : Reg) (v : Word) :
    (s.setReg r v).ebx = if .ebx = r then v else s.ebx := s.reg_setReg r .ebx v

@[simp] theorem State.setReg_esp (s : State) (r : Reg) (v : Word) :
    (s.setReg r v).esp = if .esp = r then v else s.esp := s.reg_setReg r .esp v

@[simp] theorem State.setReg_ebp (s : State) (r : Reg) (v : Word) :
    (s.setReg r v).ebp = if .ebp = r then v else s.ebp := s.reg_setReg r .ebp v

@[simp] theorem State.setReg_esi (s : State) (r : Reg) (v : Word) :
    (s.setReg r v).esi = if .esi = r then v else s.esi := s.reg_setReg r .esi v

@[simp] theorem State.setReg_edi (s : State) (r : Reg) (v : Word) :
    (s.setReg r v).edi = if .edi = r then v else s.edi := s.reg_setReg r .edi v

/-! ### setEip -/

@[simp] theorem State.setEip_cfg (s : State) (v : Word) : (s.setEip v).cfg = s.cfg := rfl

@[simp] theorem State.setEip_eip (s : State) (v : Word) : (s.setEip v).eip = v := rfl

@[simp] theorem State.setEip_eflags (s : State) (v : Word) : (s.setEip v).eflags = s.eflags := rfl

@[simp] theorem State.setEip_cs (s : State) (v : Word) : (s.setEip v).cs = s.cs := rfl

@[simp] theorem State.setEip_ss (s : State) (v : Word) : (s.setEip v).ss = s.ss := rfl

@[simp] theorem State.setEip_cpl (s : State) (v : Word) : (s.setEip v).cpl = s.cpl := rfl

@[simp] theorem State.setEip_efer (s : State) (v : Word) : (s.setEip v).efer = s.efer := rfl

@[simp] theorem State.setEip_star (s : State) (v : Word) : (s.setEip v).star = s.star := rfl

@[simp] theorem State.setEip_mem (s : State) (v : Word) : (s.setEip v).mem = s.mem := rfl

@[simp] theorem State.setEip_written (s : State) (v : Word) :
    (s.setEip v).written = s.written := rfl

@[simp] theorem State.setEip_draws (s : State) (v : Word) : (s.setEip v).draws = s.draws := rfl

@[simp] theorem State.setEip_eax (s : State) (v : Word) : (s.setEip v).eax = s.eax := rfl

@[simp] theorem State.setEip_ecx (s : State) (v : Word) : (s.setEip v).ecx = s.ecx := rfl

@[simp] theorem State.setEip_edx (s : State) (v : Word) : (s.setEip v).edx = s.edx := rfl

@[simp] theorem State.setEip_ebx (s : State) (v : Word) : (s.setEip v).ebx = s.ebx := rfl

@[simp] theorem State.setEip_esp (s : State) (v : Word) : (s.setEip v).esp = s.esp := rfl

@[simp] theorem State.setEip_ebp (s : State) (v : Word) : (s.setEip v).ebp = s.ebp := rfl

@[simp] theorem State.setEip_esi (s : State) (v : Word) : (s.setEip v).esi = s.esi := rfl

@[simp] theorem State.setEip_edi (s : State) (v : Word) : (s.setEip v).edi = s.edi := rfl

@[simp] theorem State.setEip_reg (s : State) (v : Word) (r : Reg) : (s.setEip v).reg r = s.reg r := by
  cases r <;> rfl

/-! ### setEflags -/

@[simp] theorem State.setEflags_cfg (s : State) (v : Word) : (s.setEflags v).cfg = s.cfg := rfl

@[simp] theorem State.setEflags_eip (s : State) (v : Word) : (s.setEflags v).eip = s.eip := rfl

@[simp] theorem State.setEflags_eflags (s : State) (v : Word) : (s.setEflags v).eflags = v := rfl

@[simp] theorem State.setEflags_cs (s : State) (v : Word) : (s.setEflags v).cs = s.cs := rfl

@[simp] theorem State.setEflags_ss (s : State) (v : Word) : (s.setEflags v).ss = s.ss := rfl

@[simp] theorem State.setEflags_cpl (s : State) (v : Word) : (s.setEflags v).cpl = s.cpl := rfl

@[simp] theorem State.setEflags_efer (s : State) (v : Word) : (s.setEflags v).efer = s.efer := rfl

@[simp] theorem State.setEflags_star (s : State) (v : Word) : (s.setEflags v).star = s.star := rfl

@[simp] theorem State.setEflags_mem (s : State) (v : Word) : (s.setEflags v).mem = s.mem := rfl

@[simp] theorem State.setEflags_written (s : State) (v : Word) :
    (s.setEflags v).written = s.written := rfl

@[simp] theorem State.setEflags_draws (s : State) (v : Word) :
    (s.setEflags v).draws = s.draws := rfl

@[simp] theorem State.setEflags_eax (s : State) (v : Word) : (s.setEflags v).eax = s.eax := rfl

@[simp] theorem State.setEflags_ecx (s : State) (v : Word) : (s.setEflags v).ecx = s.ecx := rfl

@[simp] theorem State.setEflags_edx (s : State) (v : Word) : (s.setEflags v).edx = s.edx := rfl

@[simp] theorem State.setEflags_ebx (s : State) (v : Word) : (s.setEflags v).ebx = s.ebx := rfl

@[simp] theorem State.setEflags_esp (s : State) (v : Word) : (s.setEflags v).esp = s.esp := rfl

@[simp] theorem State.setEflags_ebp (s : State) (v : Word) : (s.setEflags v).ebp = s.ebp := rfl

@[simp] theorem State.setEflags_esi (s : State) (v : Word) : (s.setEflags v).esi = s.esi := rfl

@[simp] theorem State.setEflags_edi (s : State) (v : Word) : (s.setEflags v).edi = s.edi := rfl

@[simp] theorem State.setEflags_reg (s : State) (v : Word) (r : Reg) : (s.setEflags v).reg r = s.reg r := by
  cases r <;> rfl

/-! ### useDraws -/

@[simp] theorem State.useDraws_cfg (s : State) (n : Nat) : (s.useDraws n).cfg = s.cfg := rfl

@[simp] theorem State.useDraws_eip (s : State) (n : Nat) : (s.useDraws n).eip = s.eip := rfl

@[simp] theorem State.useDraws_eflags (s : State) (n : Nat) :
    (s.useDraws n).eflags = s.eflags := rfl

@[simp] theorem State.useDraws_cs (s : State) (n : Nat) : (s.useDraws n).cs = s.cs := rfl

@[simp] theorem State.useDraws_ss (s : State) (n : Nat) : (s.useDraws n).ss = s.ss := rfl

@[simp] theorem State.useDraws_cpl (s : State) (n : Nat) : (s.useDraws n).cpl = s.cpl := rfl

@[simp] theorem State.useDraws_efer (s : State) (n : Nat) : (s.useDraws n).efer = s.efer := rfl

@[simp] theorem State.useDraws_star (s : State) (n : Nat) : (s.useDraws n).star = s.star := rfl

@[simp] theorem State.useDraws_mem (s : State) (n : Nat) : (s.useDraws n).mem = s.mem := rfl

@[simp] theorem State.useDraws_written (s : State) (n : Nat) :
    (s.useDraws n).written = s.written := rfl

@[simp] theorem State.useDraws_draws (s : State) (n : Nat) :
    (s.useDraws n).draws = s.draws + n := rfl

@[simp] theorem State.useDraws_eax (s : State) (n : Nat) : (s.useDraws n).eax = s.eax := rfl

@[simp] theorem State.useDraws_ecx (s : State) (n : Nat) : (s.useDraws n).ecx = s.ecx := rfl

@[simp] theorem State.useDraws_edx (s : State) (n : Nat) : (s.useDraws n).edx = s.edx := rfl

@[simp] theorem State.useDraws_ebx (s : State) (n : Nat) : (s.useDraws n).ebx = s.ebx := rfl

@[simp] theorem State.useDraws_esp (s : State) (n : Nat) : (s.useDraws n).esp = s.esp := rfl

@[simp] theorem State.useDraws_ebp (s : State) (n : Nat) : (s.useDraws n).ebp = s.ebp := rfl

@[simp] theorem State.useDraws_esi (s : State) (n : Nat) : (s.useDraws n).esi = s.esi := rfl

@[simp] theorem State.useDraws_edi (s : State) (n : Nat) : (s.useDraws n).edi = s.edi := rfl

@[simp] theorem State.useDraws_reg (s : State) (n : Nat) (r : Reg) : (s.useDraws n).reg r = s.reg r := by
  cases r <;> rfl

/-! ### storeWord -/

@[simp] theorem State.storeWord_cfg (s : State) (a : Nat) (v : Word) :
    (s.storeWord a v).cfg = s.cfg := rfl

@[simp] theorem State.storeWord_eip (s : State) (a : Nat) (v : Word) :
    (s.storeWord a v).eip = s.eip := rfl

@[simp] theorem State.storeWord_eflags (s : State) (a : Nat) (v : Word) :
    (s.storeWord a v).eflags = s.eflags := rfl

@[simp] theorem State.storeWord_cs (s : State) (a : Nat) (v : Word) :
    (s.storeWord a v).cs = s.cs := rfl

@[simp] theorem State.storeWord_ss (s : State) (a : Nat) (v : Word) :
    (s.storeWord a v).ss = s.ss := rfl

@[simp] theorem State.storeWord_cpl (s : State) (a : Nat) (v : Word) :
    (s.storeWord a v).cpl = s.cpl := rfl

@[simp] theorem State.storeWord_efer (s : State) (a : Nat) (v : Word) :
    (s.storeWord a v).efer = s.efer := rfl

@[simp] theorem State.storeWord_star (s : State) (a : Nat) (v : Word) :
    (s.storeWord a v).star = s.star := rfl

@[simp] theorem State.storeWord_mem (s : State) (a : Nat) (v : Word) :
    (s.storeWord a v).mem = Memory.writeWord s.mem a v := rfl

@[simp] theorem State.storeWord_written (s : State) (a : Nat) (v : Word) :
    (s.storeWord a v).written = AddrSet.insertWord s.written a := rfl

@[simp] theorem State.storeWord_draws (s : State) (a : Nat) (v : Word) :
    (s.storeWord a v).draws = s.draws := rfl

@[simp] theorem State.storeWord_eax (s : State) (a : Nat) (v : Word) : (s.storeWord a v).eax = s.eax := rfl

@[simp] theorem State.storeWord_ecx (s : State) (a : Nat) (v : Word) : (s.storeWord a v).ecx = s.ecx := rfl

@[simp] theorem State.storeWord_edx (s : State) (a : Nat) (v : Word) : (s.storeWord a v).edx = s.edx := rfl

@[simp] theorem State.storeWord_ebx (s : State) (a : Nat) (v : Word) : (s.storeWord a v).ebx = s.ebx := rfl

@[simp] theorem State.storeWord_esp (s : State) (a : Nat) (v : Word) : (s.storeWord a v).esp = s.esp := rfl

@[simp] theorem State.storeWord_ebp (s : State) (a : Nat) (v : Word) : (s.storeWord a v).ebp = s.ebp := rfl

@[simp] theorem State.storeWord_esi (s : State) (a : Nat) (v : Word) : (s.storeWord a v).esi = s.esi := rfl

@[simp] theorem State.storeWord_edi (s : State) (a : Nat) (v : Word) : (s.storeWord a v).edi = s.edi := rfl

@[simp] theorem State.storeWord_reg (s : State) (a : Nat) (v : Word) (r : Reg) : (s.storeWord a v).reg r = s.reg r := by
  cases r <;> rfl

/-! ### setQuad -/

@[simp] theorem State.setQuad_cfg (s : State) (q : Quad) : (s.setQuad q).cfg = s.cfg := rfl

@[simp] theorem State.setQuad_eip (s : State) (q : Quad) : (s.setQuad q).eip = s.eip := rfl

@[simp] theorem State.setQuad_eflags (s : State) (q : Quad) : (s.setQuad q).eflags = s.eflags := rfl

@[simp] theorem State.setQuad_cs (s : State) (q : Quad) : (s.setQuad q).cs = s.cs := rfl

@[simp] theorem State.setQuad_ss (s : State) (q : Quad) : (s.setQuad q).ss = s.ss := rfl

@[simp] theorem State.setQuad_cpl (s : State) (q : Quad) : (s.setQuad q).cpl = s.cpl := rfl

@[simp] theorem State.setQuad_efer (s : State) (q : Quad) : (s.setQuad q).efer = s.efer := rfl

@[simp] theorem State.setQuad_star (s : State) (q : Quad) : (s.setQuad q).star = s.star := rfl

@[simp] theorem State.setQuad_mem (s : State) (q : Quad) : (s.setQuad q).mem = s.mem := rfl

@[simp] theorem State.setQuad_written (s : State) (q : Quad) :
    (s.setQuad q).written = s.written := rfl

@[simp] theorem State.setQuad_draws (s : State) (q : Quad) : (s.setQuad q).draws = s.draws := rfl

@[simp] theorem State.setQuad_eax (s : State) (q : Quad) : (s.setQuad q).eax = q.eax := rfl

@[simp] theorem State.setQuad_ebx (s : State) (q : Quad) : (s.setQuad q).ebx = q.ebx := rfl

@[simp] theorem State.setQuad_ecx (s : State) (q : Quad) : (s.setQuad q).ecx = q.ecx := rfl

@[simp] theorem State.setQuad_edx (s : State) (q : Quad) : (s.setQuad q).edx = q.edx := rfl

/-- CPUID's write touches four registers. -/
theorem State.setQuad_reg (s : State) (q : Quad) (r : Reg) (h : r ∉ [Reg.eax, .ebx, .ecx, .edx]) :
    (s.setQuad q).reg r = s.reg r := by
  cases r <;> first | rfl | exact absurd (by decide) h

end Sys2Proof.Machine
end

