-- ==== Sys2Proof/Laws/Flags.lean ====
section
/-! SUPPORT. What each flag computation leaves in each bit of EFLAGS. -/

namespace Sys2Proof.Machine

/-- Reading a bit after a write of one. -/
theorem getLsbD_setBit (e : Word) (i j : Nat) (v : Bool) (hi : i < 32) :
    (setBit e i v).getLsbD j = if j = i then v else e.getLsbD j := by
  unfold setBit
  by_cases hj : j < 32
  · cases v <;> by_cases h : j = i
    · subst h; simp [hj]
    · simp [hj, h]
    · subst h; simp [hj]
    · simp [h, BitVec.getLsbD_twoPow, Ne.symm h]
  · rw [BitVec.getLsbD_of_ge _ _ (by omega), BitVec.getLsbD_of_ge _ _ (by omega)]
    simp [show j ≠ i by omega]

/-- `LOGIC_FLAGS(r)`, bit by bit (R213). -/
theorem getLsbD_logicFlags (r e : Word) (af : Bool) (j : Nat) :
    (logicFlags r af e).getLsbD j =
      if j = bitAF then af else if j = bitOF then false else if j = bitCF then false
      else if j = bitPF then evenParity r else if j = bitSF then r.getLsbD 31
      else if j = bitZF then (r == 0) else e.getLsbD j := by
  simp only [logicFlags, resultFlags, getLsbD_setBit _ bitAF _ _ (by decide),
    getLsbD_setBit _ bitOF _ _ (by decide), getLsbD_setBit _ bitCF _ _ (by decide),
    getLsbD_setBit _ bitPF _ _ (by decide), getLsbD_setBit _ bitSF _ _ (by decide),
    getLsbD_setBit _ bitZF _ _ (by decide)]

/-- `SUB_FLAGS(a, b)`, bit by bit (R213). -/
theorem getLsbD_subFlags (a b e : Word) (j : Nat) :
    (subFlags a b e).getLsbD j =
      if j = bitAF then decide (a.extractLsb' 0 4 < b.extractLsb' 0 4)
      else if j = bitOF then subOverflow a b else if j = bitCF then decide (a < b)
      else if j = bitPF then evenParity (a - b) else if j = bitSF then (a - b).getLsbD 31
      else if j = bitZF then (a - b == 0) else e.getLsbD j := by
  simp only [subFlags, resultFlags, getLsbD_setBit _ bitAF _ _ (by decide),
    getLsbD_setBit _ bitOF _ _ (by decide), getLsbD_setBit _ bitCF _ _ (by decide),
    getLsbD_setBit _ bitPF _ _ (by decide), getLsbD_setBit _ bitSF _ _ (by decide),
    getLsbD_setBit _ bitZF _ _ (by decide)]

/-- What POPFD leaves, bit by bit: RF cleared, the bits of W from the popped value, the others kept
(R203). -/
theorem getLsbD_popfdFlags (s : State) (v : Word) (j : Nat) (hj : j < 32) :
    (popfdFlags s v).getLsbD j =
      (decide (j ≠ bitRF) && if (popfdMask s).getLsbD j then v.getLsbD j else s.eflags.getLsbD j) := by
  have h16 : (0x00010000 : Word) = BitVec.twoPow 32 16 := by decide
  simp only [popfdFlags, BitVec.getLsbD_and, BitVec.getLsbD_or, BitVec.getLsbD_not, h16,
    BitVec.getLsbD_twoPow]
  by_cases h : j = 16
  · subst h; simp
  · cases (popfdMask s).getLsbD j <;> simp [hj, h, Ne.symm h]

/-- The bits of a mask literal of POPFD that are set. -/
theorem popfdMask_bit (s : State) (j : Nat) (hj : j < 32) :
    (popfdMask s).getLsbD j =
      ((0x00044DD5 : Word).getLsbD j || (s.cfg.hasCpuid && decide (j = bitID)) ||
        (decide (s.cpl = 0) && (0x00003000 : Word).getLsbD j) ||
        (decide (s.cpl ≤ s.iopl) && decide (j = s.cfg.ifBit.val))) := by
  have hID : bitID < 32 := by decide
  have hp : ∀ k : Nat, k < 32 → (BitVec.twoPow 32 k).getLsbD j = decide (j = k) := fun k hk => by
    by_cases h : j = k
    · subst h; simp [hj]
    · simp [BitVec.getLsbD_twoPow, h, Ne.symm h]
  simp only [popfdMask, BitVec.getLsbD_or]
  congr 1
  · congr 1
    · congr 1
      cases s.cfg.hasCpuid <;> simp [hp _ hID]
    · split <;> simp_all
  · rw [← hp _ s.cfg.ifBit.isLt]
    split <;> simp [*]

/-- POPFD does not write the always-one bit 1, provided IF is not there (R203, R26). -/
theorem popfdFlags_bit1 (s : State) (v : Word) (h : s.cfg.ifBit.val ≠ 1) :
    (popfdFlags s v).getLsbD 1 = s.eflags.getLsbD 1 := by
  have hm : (popfdMask s).getLsbD 1 = false := by
    rw [popfdMask_bit s 1 (by omega)]
    simp [Ne.symm h]
  rw [getLsbD_popfdFlags s v 1 (by omega), hm]
  simp

end Sys2Proof.Machine
end

