-- ==== Sys2Proof/Laws/Ops.lean ====
section
/-! SUPPORT. One lemma per shared operation that says once when it answers a next state, a fault, or what
it does under its conditions; proofs about instructions cite these instead of unfolding. -/

namespace Sys2Proof.Machine

/-! ### The program counter -/

theorem withNextPc_of {n : Nat} {s : State} (h : s.eip.toNat + n < spaceSize) (k : Word → Result) :
    withNextPc n s k = k (s.eip + BitVec.ofNat 32 n) := if_pos h

/-- Where the next program counter reaches 2^32 there is no effect but the refusal (R23, D8). -/
theorem withNextPc_past {n : Nat} {s : State} (h : ¬ s.eip.toNat + n < spaceSize) (k : Word → Result) :
    withNextPc n s k = .refused .nextPcPastTop := by
  simp [withNextPc, h]

theorem withNextPc_next {n : Nat} {s t : State} {k : Word → Result}
    (h : withNextPc n s k = .next t) :
    s.eip.toNat + n < spaceSize ∧ k (s.eip + BitVec.ofNat 32 n) = .next t := by
  unfold withNextPc at h
  split at h
  · exact ⟨‹_›, h⟩
  · cases h

theorem withNextPc_fault {n : Nat} {s : State} {r : Fault} {k : Word → Result}
    (h : withNextPc n s k = .fault r) :
    s.eip.toNat + n < spaceSize ∧ k (s.eip + BitVec.ofNat 32 n) = .fault r := by
  unfold withNextPc at h
  split at h
  · exact ⟨‹_›, h⟩
  · cases h

theorem sampleCode_of {n : Nat} {s : State} (hv : s.vm = false)
    (h : s.eip.toNat + n < spaceSize) (k : Word → Result) :
    sampleCode n s k = k (s.eip + BitVec.ofNat 32 n) := by
  simp [sampleCode, hv, withNextPc_of h]

/-- VM = 1 is refused whatever else holds (R201 (f)). -/
theorem sampleCode_vm {n : Nat} {s : State} (hv : s.vm = true) (k : Word → Result) :
    sampleCode n s k = .refused .virtual8086 := by
  simp [sampleCode, hv]

/-- With VM = 0 a next program counter that reaches 2^32 is refused (R23, D8). -/
theorem sampleCode_past {n : Nat} {s : State} (hv : s.vm = false) (h : ¬ s.eip.toNat + n < spaceSize)
    (k : Word → Result) : sampleCode n s k = .refused .nextPcPastTop := by
  simp [sampleCode, hv, withNextPc_past h]

theorem sampleCode_next {n : Nat} {s t : State} {k : Word → Result}
    (h : sampleCode n s k = .next t) :
    s.vm = false ∧ s.eip.toNat + n < spaceSize ∧ k (s.eip + BitVec.ofNat 32 n) = .next t := by
  unfold sampleCode at h
  split at h
  · cases h
  · exact ⟨by simpa using ‹¬ s.vm = true›, withNextPc_next h⟩

theorem sampleCode_fault {n : Nat} {s : State} {r : Fault} {k : Word → Result}
    (h : sampleCode n s k = .fault r) : ∃ next, k next = .fault r := by
  unfold sampleCode at h
  split at h
  · cases h
  · exact ⟨_, (withNextPc_fault h).2⟩

/-! ### Segments -/

theorem SegReg.flat_iff (g : SegReg) : g.flat = true ↔ g.base = 0 ∧ g.limit = 0xFFFFFFFF := by
  simp [SegReg.flat]

/-! ### The stack -/

theorem stackAccess_of {s : State} {off : Word} (hf : s.ss.flat = true)
    (hw : s.ss.attr.writable = true) (ho : off.toNat + 4 ≤ spaceSize) (k : Nat → Result) :
    stackAccess s off k = k off.toNat := by
  simp [stackAccess, hf, hw, ho]

theorem stackAccess_next {s t : State} {off : Word} {k : Nat → Result}
    (h : stackAccess s off k = .next t) :
    s.ss.flat = true ∧ s.ss.attr.writable = true ∧ off.toNat + 4 ≤ spaceSize ∧
      k off.toNat = .next t := by
  unfold stackAccess at h
  split at h
  · cases h
  · split at h
    · cases h
    · split at h
      · exact ⟨by simp_all, by simp_all, ‹_›, h⟩
      · cases h

theorem stackAccess_fault {s : State} {off : Word} {r : Fault} {k : Nat → Result}
    (h : stackAccess s off k = .fault r) : k off.toNat = .fault r := by
  unfold stackAccess at h
  split at h
  · cases h
  · split at h
    · cases h
    · split at h
      · exact h
      · cases h

/-- What a push that goes on has done. -/
theorem push32_next {s t : State} {v : Word} {k : State → Result} (h : push32 v s k = .next t) :
    s.ss.flat = true ∧ s.ss.attr.writable = true ∧ (s.esp - 4).toNat + 4 ≤ spaceSize ∧
      k ((s.storeWord (s.esp - 4).toNat v).setReg .esp (s.esp - 4)) = .next t := by
  unfold push32 at h
  exact stackAccess_next h

/-- What a pop that goes on has done. -/
theorem pop32_next {s t : State} {k : Word → State → Result} (h : pop32 s k = .next t) :
    s.ss.flat = true ∧ s.ss.attr.writable = true ∧ s.esp.toNat + 4 ≤ spaceSize ∧
      k (Memory.readWord s.mem s.esp.toNat) (s.setReg .esp (s.esp + 4)) = .next t := by
  unfold pop32 at h
  exact stackAccess_next h

theorem push32_of {s : State} {v : Word} (hf : s.ss.flat = true) (hw : s.ss.attr.writable = true)
    (ho : (s.esp - 4).toNat + 4 ≤ spaceSize) (k : State → Result) :
    push32 v s k = k ((s.storeWord (s.esp - 4).toNat v).setReg .esp (s.esp - 4)) := by
  unfold push32
  exact stackAccess_of hf hw ho _

theorem pop32_of {s : State} (hf : s.ss.flat = true) (hw : s.ss.attr.writable = true)
    (ho : s.esp.toNat + 4 ≤ spaceSize) (k : Word → State → Result) :
    pop32 s k = k (Memory.readWord s.mem s.esp.toNat) (s.setReg .esp (s.esp + 4)) := by
  unfold pop32
  exact stackAccess_of hf hw ho _

/-! ### System calls -/

theorem systemCallEnabled_of {s : State} (h : s.eip.toNat + 2 < spaceSize)
    (hs : s.cfg.hasSyscall = true) (he : s.sce = true) (k : Word → Result) :
    systemCallEnabled s k = k (s.eip + 2) := by
  simp [systemCallEnabled, withNextPc_of h, hs, he]

/-- SYSCALL and SYSRET look at the next program counter before anything else (R23, D8). -/
theorem systemCallEnabled_past {s : State} (h : ¬ s.eip.toNat + 2 < spaceSize) (k : Word → Result) :
    systemCallEnabled s k = .refused .nextPcPastTop := by
  simp [systemCallEnabled, withNextPc_past h]

theorem systemCallEnabled_next {s t : State} {k : Word → Result}
    (h : systemCallEnabled s k = .next t) :
    s.eip.toNat + 2 < spaceSize ∧ s.cfg.hasSyscall = true ∧ s.sce = true ∧
      k (s.eip + 2) = .next t := by
  obtain ⟨hp, h⟩ := withNextPc_next h
  split at h
  · cases h
  · split at h
    · cases h
    · exact ⟨hp, by simp_all, by simp_all, h⟩

/-- A fault of SYSCALL or SYSRET is Invalid opcode, or one of the instruction's own. -/
theorem systemCallEnabled_fault {s : State} {r : Fault} {k : Word → Result}
    (h : systemCallEnabled s k = .fault r) :
    s.cfg.hasSyscall = true ∧
      ((s.sce = false ∧ r = .exception 6 none s.eip) ∨ (s.sce = true ∧ k (s.eip + 2) = .fault r)) := by
  obtain ⟨-, h⟩ := withNextPc_fault h
  split at h
  · cases h
  · split at h
    · refine ⟨by simp_all, .inl ⟨by simp_all, ?_⟩⟩
      cases h; rfl
    · exact ⟨by simp_all, .inr ⟨by simp_all, h⟩⟩

/-! ### Configuration -/

@[simp] theorem hasCpuid_true (c : Config) : c.hasCpuid = true := by
  unfold Config.hasCpuid; cases c.proc <;> rfl

/-! ### Fetch -/

/-- A fetch that gives an instruction: CS is flat, the bytes decode to it, none of them was stored. -/
theorem fetch_ok {s : State} {i : Instr} (h : fetch s = .ok i) :
    s.cs.flat = true ∧ (∃ rest, decode s.fetchBytes = .ok (i, rest)) ∧
      s.storedIn s.fetchAddress i.length = false := by
  unfold fetch at h
  split at h
  · cases h
  · split at h
    · cases h
    · rename_i j rest hd
      split at h
      · cases h
      · cases h
        exact ⟨by simp_all, ⟨_, hd⟩, by simp_all⟩

theorem fetch_of {s : State} {i : Instr} {rest : List Byte} (hc : s.cs.flat = true)
    (hd : decode s.fetchBytes = .ok (i, rest)) (hs : s.storedIn s.fetchAddress i.length = false) :
    fetch s = .ok i := by
  simp [fetch, hc, hd, hs]

/-- In a flat code segment the fetch address is EIP (R66). -/
theorem State.fetchAddress_flat {s : State} (h : s.cs.base = 0) : s.fetchAddress = s.eip.toNat := by
  simp [State.fetchAddress, h]

/-! ### Step -/

/-- A step that goes on has executed the instruction it fetched. -/
theorem step_next {s t : State} (h : step s = .next t) : ∃ i, fetch s = .ok i ∧ exec i s = .next t := by
  unfold step at h
  split at h
  · cases h
  · exact ⟨_, ‹_›, h⟩

/-- A step that faults has executed the instruction it fetched. -/
theorem step_fault {s : State} {r : Fault} (h : step s = .fault r) :
    ∃ i, fetch s = .ok i ∧ exec i s = .fault r := by
  unfold step at h
  split at h
  · cases h
  · exact ⟨_, ‹_›, h⟩

theorem step_of {s : State} {i : Instr} (h : fetch s = .ok i) : step s = exec i s := by
  simp [step, h]

end Sys2Proof.Machine
end

