-- ==== Sys2Proof/Laws/Exec.lean ====
section
/-! SUPPORT. One inversion lemma per instruction: if its meaning answers a next state, the conditions
held and the next state is this one. Whole-machine properties are derived from these, by cases on the
instruction, without unfolding a meaning again. -/

namespace Sys2Proof.Machine

theorem execCpuid_next {s t : State} (h : exec .cpuid s = .next t) :
    s.eip.toNat + 2 < spaceSize ∧
      t = ((s.setQuad (s.cfg.cpuidFn s.eax s.cpuidDraws)).useDraws 4).setEip (s.eip + 2) := by
  simp only [exec, execCpuid] at h
  obtain ⟨hp, h⟩ := withNextPc_next h
  rw [if_pos (hasCpuid_true _)] at h
  cases h
  exact ⟨hp, rfl⟩

theorem execSyscall_next {s t : State} (h : exec .syscall s = .next t) :
    s.eip.toNat + 2 < spaceSize ∧ s.cfg.hasSyscall = true ∧ s.sce = true ∧
      t = { s with
        ecx := s.eip + 2
        eip := s.starTarget
        eflags := setBit (setBit s.eflags s.cfg.ifBit false) s.cfg.vmBit false
        cs := flatCodeSegment s.starSyscallSel
        ss := flatStackSegment (nextSelector s.starSyscallSel)
        cpl := 0 } := by
  simp only [exec, execSyscall] at h
  obtain ⟨hp, hs, he, h⟩ := systemCallEnabled_next h
  cases h
  exact ⟨hp, hs, he, rfl⟩

theorem execSysret_next {s t : State} (h : exec .sysret s = .next t) :
    s.eip.toNat + 2 < spaceSize ∧ s.cfg.hasSyscall = true ∧ s.sce = true ∧ s.cpl = 0 ∧
      t = { s with
        eip := s.ecx
        eflags := setBit s.eflags s.cfg.ifBit true
        cs := flatCodeSegment s.starSysretSel
        ss := { s.ss with sel := withRpl3 (nextSelector s.starSysretSel) }
        cpl := 3 } := by
  simp only [exec, execSysret] at h
  obtain ⟨hp, hs, he, h⟩ := systemCallEnabled_next h
  split at h
  · cases h
  · cases h
    exact ⟨hp, hs, he, by simp_all, rfl⟩

theorem execPushfd_next {s t : State} (h : exec .pushfd s = .next t) :
    s.vm = false ∧ s.eip.toNat + 1 < spaceSize ∧ s.ss.flat = true ∧ s.ss.attr.writable = true ∧
      (s.esp - 4).toNat + 4 ≤ spaceSize ∧
      t = ((s.storeWord (s.esp - 4).toNat (pushfdImage s)).setReg .esp (s.esp - 4)).setEip
        (s.eip + 1) := by
  simp only [exec, execPushfd] at h
  obtain ⟨hv, hp, h⟩ := sampleCode_next h
  obtain ⟨hf, hw, ho, h⟩ := push32_next h
  cases h
  exact ⟨hv, hp, hf, hw, ho, rfl⟩

theorem execPopfd_next {s t : State} (h : exec .popfd s = .next t) :
    s.vm = false ∧ s.eip.toNat + 1 < spaceSize ∧ s.ss.flat = true ∧ s.ss.attr.writable = true ∧
      s.esp.toNat + 4 ≤ spaceSize ∧
      t = ((s.setReg .esp (s.esp + 4)).setEflags
        (popfdFlags s (Memory.readWord s.mem s.esp.toNat))).setEip (s.eip + 1) := by
  simp only [exec, execPopfd] at h
  obtain ⟨hv, hp, h⟩ := sampleCode_next h
  obtain ⟨hf, hw, ho, h⟩ := pop32_next h
  cases h
  exact ⟨hv, hp, hf, hw, ho, rfl⟩

theorem execPushR32_next {s t : State} {r : Reg} (h : exec (.pushR32 r) s = .next t) :
    s.vm = false ∧ s.eip.toNat + 1 < spaceSize ∧ s.ss.flat = true ∧ s.ss.attr.writable = true ∧
      (s.esp - 4).toNat + 4 ≤ spaceSize ∧
      t = ((s.storeWord (s.esp - 4).toNat (s.reg r)).setReg .esp (s.esp - 4)).setEip (s.eip + 1) := by
  simp only [exec, execPushR32] at h
  obtain ⟨hv, hp, h⟩ := sampleCode_next h
  obtain ⟨hf, hw, ho, h⟩ := push32_next h
  cases h
  exact ⟨hv, hp, hf, hw, ho, rfl⟩

theorem execPopR32_next {s t : State} {r : Reg} (h : exec (.popR32 r) s = .next t) :
    s.vm = false ∧ s.eip.toNat + 1 < spaceSize ∧ s.ss.flat = true ∧ s.ss.attr.writable = true ∧
      s.esp.toNat + 4 ≤ spaceSize ∧
      t = ((s.setReg .esp (s.esp + 4)).setReg r (Memory.readWord s.mem s.esp.toNat)).setEip
        (s.eip + 1) := by
  simp only [exec, execPopR32] at h
  obtain ⟨hv, hp, h⟩ := sampleCode_next h
  obtain ⟨hf, hw, ho, h⟩ := pop32_next h
  cases h
  exact ⟨hv, hp, hf, hw, ho, rfl⟩

theorem execMovR32R32_next {s t : State} {a b : Reg} (h : exec (.movR32R32 a b) s = .next t) :
    s.vm = false ∧ s.eip.toNat + 2 < spaceSize ∧
      t = (s.setReg a (s.reg b)).setEip (s.eip + 2) := by
  simp only [exec, execMovR32R32] at h
  obtain ⟨hv, hp, h⟩ := sampleCode_next h
  cases h
  exact ⟨hv, hp, rfl⟩

theorem execMovR32Imm32_next {s t : State} {r : Reg} {imm : Word}
    (h : exec (.movR32Imm32 r imm) s = .next t) :
    s.vm = false ∧ s.eip.toNat + 5 < spaceSize ∧ t = (s.setReg r imm).setEip (s.eip + 5) := by
  simp only [exec, execMovR32Imm32] at h
  obtain ⟨hv, hp, h⟩ := sampleCode_next h
  cases h
  exact ⟨hv, hp, rfl⟩

theorem execXorEaxImm32_next {s t : State} {imm : Word} (h : exec (.xorEaxImm32 imm) s = .next t) :
    s.vm = false ∧ s.eip.toNat + 5 < spaceSize ∧
      t = (((s.setReg .eax (s.eax ^^^ imm)).setEflags
        (logicFlags (s.eax ^^^ imm) (Config.draw1 s.draws) s.eflags)).useDraws 1).setEip
          (s.eip + 5) := by
  simp only [exec, execXorEaxImm32, State.withLogicFlags] at h
  obtain ⟨hv, hp, h⟩ := sampleCode_next h
  cases h
  exact ⟨hv, hp, rfl⟩

theorem execCmpR32R32_next {s t : State} {a b : Reg} (h : exec (.cmpR32R32 a b) s = .next t) :
    s.vm = false ∧ s.eip.toNat + 2 < spaceSize ∧
      t = (s.setEflags (subFlags (s.reg a) (s.reg b) s.eflags)).setEip (s.eip + 2) := by
  simp only [exec, execCmpR32R32] at h
  obtain ⟨hv, hp, h⟩ := sampleCode_next h
  cases h
  exact ⟨hv, hp, rfl⟩

theorem execTestR32Imm32_next {s t : State} {r : Reg} {imm : Word}
    (h : exec (.testR32Imm32 r imm) s = .next t) :
    s.vm = false ∧ s.eip.toNat + 6 < spaceSize ∧
      t = ((s.setEflags (logicFlags (s.reg r &&& imm) (Config.draw1 s.draws) s.eflags)).useDraws
        1).setEip (s.eip + 6) := by
  simp only [exec, execTestR32Imm32, State.withLogicFlags] at h
  obtain ⟨hv, hp, h⟩ := sampleCode_next h
  cases h
  exact ⟨hv, hp, rfl⟩

theorem execJzRel8_next {s t : State} {rel : BitVec 8} (h : exec (.jzRel8 rel) s = .next t) :
    s.vm = false ∧ s.eip.toNat + 2 < spaceSize ∧
      t = s.setEip (if s.zf then branchTarget (s.eip + 2) rel else s.eip + 2) := by
  simp only [exec, execJzRel8, jumpIf] at h
  obtain ⟨hv, hp, h⟩ := sampleCode_next h
  cases h
  exact ⟨hv, hp, rfl⟩

theorem execJnzRel8_next {s t : State} {rel : BitVec 8} (h : exec (.jnzRel8 rel) s = .next t) :
    s.vm = false ∧ s.eip.toNat + 2 < spaceSize ∧
      t = s.setEip (if !s.zf then branchTarget (s.eip + 2) rel else s.eip + 2) := by
  simp only [exec, execJnzRel8, jumpIf] at h
  obtain ⟨hv, hp, h⟩ := sampleCode_next h
  cases h
  exact ⟨hv, hp, rfl⟩

/-- A stack write never faults. -/
theorem push32_not_fault {s : State} {v : Word} {r : Fault} {k : State → Result}
    (hk : ∀ t, k t ≠ .fault r) : push32 v s k ≠ .fault r := fun h => by
  unfold push32 at h
  exact hk _ (stackAccess_fault h)

/-- A stack read never faults. -/
theorem pop32_not_fault {s : State} {r : Fault} {k : Word → State → Result}
    (hk : ∀ v t, k v t ≠ .fault r) : pop32 s k ≠ .fault r := fun h => by
  unfold pop32 at h
  exact hk _ _ (stackAccess_fault h)

/-- A sample-code instruction whose rest never faults does not fault. -/
theorem sampleCode_not_fault {n : Nat} {s : State} {r : Fault} {k : Word → Result}
    (hk : ∀ next, k next ≠ .fault r) : sampleCode n s k ≠ .fault r := fun h => by
  obtain ⟨next, h⟩ := sampleCode_fault h
  exact hk next h

end Sys2Proof.Machine
end

