-- ==== Sys2Proof/Laws/PerInstr.lean ====
section
/-! SUPPORT. Laws stated per instruction, one lemma per constructor. -/

namespace Sys2Proof.Laws.EncodeLength

/-- The encodings of an instruction have its length, and the length is between 1 and 6 bytes (R200). -/
def Statement (i : Instr) : Prop :=
  (encode i).length = i.length ∧ (encodeAlternative i).length = i.length ∧
    1 ≤ i.length ∧ i.length ≤ Instr.maxLength

theorem cpuid : Statement .cpuid := by
  simp [Statement, encode, encodeAlternative, Instr.length, Instr.maxLength]

theorem syscall : Statement .syscall := by
  simp [Statement, encode, encodeAlternative, Instr.length, Instr.maxLength]

theorem sysret : Statement .sysret := by
  simp [Statement, encode, encodeAlternative, Instr.length, Instr.maxLength]

theorem pushfd : Statement .pushfd := by
  simp [Statement, encode, encodeAlternative, Instr.length, Instr.maxLength]

theorem popfd : Statement .popfd := by
  simp [Statement, encode, encodeAlternative, Instr.length, Instr.maxLength]

theorem pushR32 (r : Reg) : Statement (.pushR32 r) := by
  simp [Statement, encode, encodeAlternative, Instr.length, Instr.maxLength]

theorem popR32 (r : Reg) : Statement (.popR32 r) := by
  simp [Statement, encode, encodeAlternative, Instr.length, Instr.maxLength]

theorem movR32R32 (a b : Reg) : Statement (.movR32R32 a b) := by
  simp [Statement, encode, encodeAlternative, Instr.length, Instr.maxLength]

theorem movR32Imm32 (r : Reg) (imm : Word) : Statement (.movR32Imm32 r imm) := by
  simp [Statement, encode, encodeAlternative, Instr.length, Instr.maxLength, imm32Bytes]

theorem xorEaxImm32 (imm : Word) : Statement (.xorEaxImm32 imm) := by
  simp [Statement, encode, encodeAlternative, Instr.length, Instr.maxLength, imm32Bytes]

theorem cmpR32R32 (a b : Reg) : Statement (.cmpR32R32 a b) := by
  simp [Statement, encode, encodeAlternative, Instr.length, Instr.maxLength]

theorem testR32Imm32 (r : Reg) (imm : Word) : Statement (.testR32Imm32 r imm) := by
  simp [Statement, encode, encodeAlternative, Instr.length, Instr.maxLength, imm32Bytes]

theorem jzRel8 (rel : BitVec 8) : Statement (.jzRel8 rel) := by
  simp [Statement, encode, encodeAlternative, Instr.length, Instr.maxLength]

theorem jnzRel8 (rel : BitVec 8) : Statement (.jnzRel8 rel) := by
  simp [Statement, encode, encodeAlternative, Instr.length, Instr.maxLength]

end Sys2Proof.Laws.EncodeLength
end

