-- ==== Sys2Proof/Tests/Slice0.lean ====
section
/-! SUPPORT. Tests. Expected results are those of spec/95_test_vectors.md (named by section and row) and
the encodings of 30_encoding.md and 43_sample_code_instructions.md, written out by hand. Then one witness
for the hypotheses of each statement that has some. -/

namespace Sys2Proof.Tests

open Sys2Proof Sys2Proof.Machine

/-! ### Helpers -/

/-- The next state of an outcome, if it is one. -/
def nextOf : Result → Option State
  | .next t => some t
  | .fault _ => none
  | .refused _ => none

def faultOf : Result → Option Fault
  | .next _ => none
  | .fault r => some r
  | .refused _ => none

def refusalOf : Result → Option Refusal
  | .next _ => none
  | .fault _ => none
  | .refused r => some r

theorem exists_next {r : Result} (h : (nextOf r).isSome = true) : ∃ t, r = .next t := by
  cases r <;> first | exact ⟨_, rfl⟩ | cases h

theorem exists_fault {r : Result} (h : (faultOf r).isSome = true) : ∃ t, r = .fault t := by
  cases r <;> first | exact ⟨_, rfl⟩ | cases h

/-- The whole sequence decodes to one instruction. -/
def decodesTo (bytes : List Byte) (i : Instr) : Bool :=
  match decode bytes with
  | .ok (j, []) => decide (j = i)
  | .ok (_, _ :: _) => false
  | .error _ => false

/-- The sequence is rejected under a name. -/
def rejects (bytes : List Byte) (e : DecodeError) : Bool :=
  match decode bytes with
  | .ok _ => false
  | .error e' => decide (e' = e)

theorem exists_decode {bytes : List Byte} (h : (decode bytes).isOk = true) :
    ∃ i rest, decode bytes = .ok (i, rest) := by
  cases hd : decode bytes with
  | error e => simp [hd, Except.isOk, Except.toBool] at h
  | ok r => exact ⟨r.1, r.2, rfl⟩

/-- A processor at stepping `s`. -/
def onProc (p : Proc) (s : BitVec 4) : Config := { Config.reset with proc := p, stepping := s }

/-- The state of most tests: EIP 1000h, ESP 1_0000h, EFER.SCE = 1, the STAR of the vectors. -/
def base : State :=
  { State.reset with
    eip := 0x00001000, esp := 0x00010000, efer := 1, star := 0x001B000880100000 }

/-- The state before SYSCALL of V3. -/
def beforeSyscall : State :=
  { base with
    eip := 0x00401000, ecx := 0x12345678, eflags := 0x00200202, cpl := 3
    cs := ⟨0x001B, 0, 0xFFFFFFFF, .other 0⟩, ss := ⟨0x0023, 0, 0xFFFFFFFF, .other 0⟩ }

/-- The state before SYSRET of V4. -/
def beforeSysret : State :=
  { base with
    eip := 0x80100040, ecx := 0x00401002
    cs := ⟨0x0008, 0, 0xFFFFFFFF, .csFlat⟩, ss := ⟨0x0010, 0, 0xFFFFFFFF, .ssFlat⟩ }

/-! ### Well-formedness -/

/-- Ill formed at FFFF_FFFEh: pc + 2 = 2^32 (V3 row 11). -/
theorem test_wellFormed_refuses_top : Instr.wellFormedAt 0xFFFFFFFE .syscall = false := by decide

/-- Well formed at FFFF_FFFCh (V3 row 12). -/
theorem test_wellFormed_accepts_below_top : Instr.wellFormedAt 0xFFFFFFFC .syscall = true := by decide

/-- The longest instruction is ill formed where its last byte would be the last of the space. -/
theorem test_wellFormed_longest :
    Instr.wellFormedAt 0xFFFFFFFA (.testR32Imm32 .edx 0x800) = false ∧
    Instr.wellFormedAt 0xFFFFFFF9 (.testR32Imm32 .edx 0x800) = true := by decide

/-! ### Decoding, words written out from the encodings -/

theorem test_decode_two_byte_opcodes :
    decodesTo [0b00001111, 0b10100010] .cpuid ∧ decodesTo [0b00001111, 0b00000101] .syscall ∧
    decodesTo [0b00001111, 0b00000111] .sysret := by decide

theorem test_decode_stack :
    decodesTo [0b10011100] .pushfd ∧ decodesTo [0b10011101] .popfd ∧
    decodesTo [0b01010_100] (.pushR32 .esp) ∧ decodesTo [0b01011_111] (.popR32 .edi) := by decide

theorem test_decode_mov :
    decodesTo [0x8B, 0b11_011_000] (.movR32R32 .ebx .eax) ∧
    decodesTo [0x89, 0b11_000_011] (.movR32R32 .ebx .eax) ∧
    decodesTo [0b10111_110, 0x01, 0x02, 0x03, 0x80] (.movR32Imm32 .esi 0x80030201) := by decide

theorem test_decode_logic :
    decodesTo [0x35, 0x00, 0x00, 0x20, 0x00] (.xorEaxImm32 0x00200000) ∧
    decodesTo [0x3B, 0b11_000_011] (.cmpR32R32 .eax .ebx) ∧
    decodesTo [0x39, 0b11_011_000] (.cmpR32R32 .eax .ebx) ∧
    decodesTo [0xF7, 0b11_000_010, 0x00, 0x08, 0x00, 0x00] (.testR32Imm32 .edx 0x800) := by decide

theorem test_decode_jumps :
    decodesTo [0x74, 0xFE] (.jzRel8 0xFE) ∧ decodesTo [0x75, 0x05] (.jnzRel8 0x05) := by decide

/-- V6 rows 6 to 8, a memory form of MOV, F7 /1, and a cut immediate. -/
theorem test_decode_rejects :
    rejects [0x66, 0x0F, 0xA2] (.prefixByte 0x66) ∧ rejects [0x0F, 0x06] (.unknownSecondByte 0x0F 0x06) ∧
    rejects [0x90] (.unknownFirstByte 0x90) ∧
    rejects [0x8B, 0b00_011_000] (.unknownSecondByte 0x8B 0x18) ∧
    rejects [0xF7, 0b11_001_010, 0, 0, 0, 0] (.unknownSecondByte 0xF7 0xCA) ∧
    rejects [0xB8, 0x01, 0x00, 0x00] .truncated ∧ rejects [] .truncated := by decide

/-- Two rows agree on every bit that both fix (a one-byte row is compared on the first byte), so that some
byte sequence would fit both. -/
def OpRow.overlaps (r q : OpRow) : Bool :=
  let up := fun (n : Nat) (m : Nat) => if n = 1 then m * 256 else m
  let both := up r.matchBytes r.mask &&& up q.matchBytes q.mask
  up r.matchBytes r.pattern &&& both == up q.matchBytes q.pattern &&& both

/-- No byte sequence fits two rows of the opcode table. -/
theorem test_rows_do_not_overlap : opcodeTable.Pairwise (fun r q => OpRow.overlaps r q = false) := by
  decide

/-- The table's numbering: byte 0 most significant (R81); a word in the other order is read too. -/
theorem test_decodeTableWord :
    decodeTableWord 16 0x0FA2 = some .cpuid ∧ decodeTableWord 16 0xA20F = some .cpuid ∧
    decodeTableWord 8 0xB8 = some (.movR32Imm32 .eax 0) ∧
    decodeTableWord 16 0xF7C0 = some (.testR32Imm32 .eax 0) ∧
    decodeTableWord 16 0x0F06 = none := by decide

/-! ### CPUID -/

/-- V1 row 14. -/
theorem test_cpuid_extended_signature :
    (nextOf (exec .cpuid { base with cfg := onProc .k6M6 2, eax := 0x80000001 })).map
      (fun t => (t.eax, t.edx, t.eip)) = some (0x00000662, 0x008001BF, 0x00001002) := by decide

/-- V1 row 25. -/
theorem test_cpuid_name :
    (nextOf (exec .cpuid { base with eax := 0x80000003 })).map (fun t => (t.eax, t.ebx, t.ecx, t.edx)) =
      some (0x7365636F, 0x00726F73, 0, 0) := by decide

/-! ### SYSCALL and SYSRET -/

/-- V3 row 1. -/
theorem test_syscall :
    (nextOf (exec .syscall beforeSyscall)).map (fun t => (t.ecx, t.eip, t.eflags, t.cs, t.ss, t.cpl)) =
      some (0x00401002, 0x80100000, 0x00200002, ⟨0x0008, 0, 0xFFFFFFFF, .csFlat⟩,
        ⟨0x0010, 0, 0xFFFFFFFF, .ssFlat⟩, 0) := by decide

/-- V3 rows 5 and 13. -/
theorem test_syscall_corners :
    (nextOf (exec .syscall { beforeSyscall with star := 0x001BFFF880100000 })).map
      (fun t => (t.cs.sel, t.ss.sel)) = some (0xFFF8, 0x0000) ∧
    refusalOf (exec .syscall { beforeSyscall with cfg := onProc .k6M6 0 }) =
      some .syscallUnavailable := by decide

/-- V4 row 13, with the selector of row 9. -/
theorem test_sysret :
    (nextOf (exec .sysret { beforeSysret with
      star := 0xFFFC000880100000, ss := ⟨0x0010, 0x00010000, 0x0000FFFF, .other 7⟩ })).map
      (fun t => (t.eip, t.eflags, t.cs.sel, t.ss, t.cpl)) =
      some (0x00401002, 0x00000202, 0xFFFC, ⟨0x0007, 0x00010000, 0x0000FFFF, .other 7⟩, 3) := by decide

/-- V4 rows 3 and 5. -/
theorem test_sysret_faults :
    faultOf (exec .sysret { beforeSysret with cpl := 1 }) = some (.exception 13 (some 0) 0x80100040) ∧
    faultOf (exec .sysret { beforeSysret with cpl := 3, efer := 0 }) =
      some (.exception 6 none 0x80100040) := by decide

/-! ### Sample-code instructions -/

/-- V5 row 2. -/
theorem test_pushfd :
    (nextOf (exec .pushfd { base with eflags := 0x00210202 })).map (fun t => (t.esp, t.mem, t.eflags)) =
      some (0x0000FFFC, [(0xFFFC, 0x02), (0xFFFD, 0x02), (0xFFFE, 0x20)], 0x00210202) := by decide

/-- V5 rows 4 and 5. -/
theorem test_popfd :
    (nextOf (exec .popfd { base with
      cpl := 3, eflags := 0x00000202, mem := Memory.writeWord [] 0x10000 0x00203002 })).map
      (fun t => (t.eflags, t.esp)) = some (0x00200202, 0x00010004) ∧
    (nextOf (exec .popfd { base with
      cpl := 3, eflags := 0x00003202, mem := Memory.writeWord [] 0x10000 0x00000002 })).map
      (fun t => t.eflags) = some 0x00003002 := by decide

/-- V5 row 6; PUSH ESP pushes the old ESP (R204). -/
theorem test_push :
    (nextOf (exec (.pushR32 .eax) { base with eax := 0x00200202 })).map (fun t => (t.esp, t.mem)) =
      some (0x0000FFFC, [(0xFFFC, 0x02), (0xFFFD, 0x02), (0xFFFE, 0x20)]) ∧
    (nextOf (exec (.pushR32 .esp) base)).map (fun t => Memory.readWord t.mem 0xFFFC) =
      some 0x00010000 := by decide

/-- V5 row 7; POP ESP leaves the popped value (R205). -/
theorem test_pop :
    (nextOf (exec (.popR32 .eax) { base with
      esp := 0x0000FFFC, mem := [(0xFFFC, 0x02), (0xFFFD, 0x02), (0xFFFE, 0x20)] })).map
      (fun t => (t.eax, t.esp)) = some (0x00200202, 0x00010000) ∧
    (nextOf (exec (.popR32 .esp) { base with mem := [(0x10000, 0x02)] })).map (fun t => t.esp) =
      some 0x00000002 := by decide

/-- V5 row 8. -/
theorem test_mov :
    (nextOf (exec (.movR32R32 .ebx .eax) { base with eax := 0x00000202 })).map
      (fun t => (t.ebx, t.eip)) = some (0x00000202, 0x00001002) := by decide

/-- V5 row 9. -/
theorem test_mov_imm :
    (nextOf (exec (.movR32Imm32 .eax 0x80000001) base)).map (fun t => (t.eax, t.eip)) =
      some (0x80000001, 0x00001005) := by decide

/-- V5 row 12: EAX, then CF, PF, ZF, SF, OF. -/
theorem test_xor :
    (nextOf (exec (.xorEaxImm32 0x80000000) base)).map (fun t => t.eax) = some 0x80000000 ∧
    ∀ af, [0, 2, 6, 7, 11].map (fun k => (logicFlags 0x80000000 af 0x8C7).getLsbD k) =
      [false, true, false, true, false] := by decide

/-- V5 rows 15 and 16: CF, PF, AF, ZF, SF, OF. -/
theorem test_cmp :
    (nextOf (exec (.cmpR32R32 .eax .ebx) { base with eax := 0x00000202, ebx := 0x00200202 })).map
      (fun t => [0, 2, 4, 6, 7, 11].map fun k => t.eflags.getLsbD k) =
      some [true, true, false, false, true, false] ∧
    (nextOf (exec (.cmpR32R32 .eax .ebx) { base with eax := 0x80000000, ebx := 0x00000001 })).map
      (fun t => [0, 2, 4, 6, 7, 11].map fun k => t.eflags.getLsbD k) =
      some [false, true, true, false, false, true] := by decide

/-- V5 rows 17 and 18: PF, ZF, SF; EDX is not written. -/
theorem test_test :
    (nextOf (exec (.testR32Imm32 .edx 0x800) { base with edx := 0x808009BF })).map
      (fun t => (t.edx, t.eip)) = some (0x808009BF, 0x00001006) ∧
    (∀ af, [2, 6, 7].map (fun k => (logicFlags (0x808009BF &&& 0x800) af 0x2).getLsbD k) =
      [true, false, false]) ∧
    ∀ af, [2, 6, 7].map (fun k => (logicFlags (0x008001BF &&& 0x800) af 0x2).getLsbD k) =
      [true, true, false] := by decide

/-- V5 rows 19 and 20. -/
theorem test_jz :
    (nextOf (exec (.jzRel8 0x10) { base with eip := 0x100F, eflags := 0x42 })).map (·.eip) =
      some 0x00001021 ∧
    (nextOf (exec (.jzRel8 0x10) { base with eip := 0x100F })).map (·.eip) = some 0x00001011 := by decide

/-- V5 rows 24 and 23. -/
theorem test_jnz :
    (nextOf (exec (.jnzRel8 0x80) { base with eip := 0x3000 })).map (·.eip) = some 0x00002F82 ∧
    (nextOf (exec (.jnzRel8 0x05) { base with eip := 0x200D, eflags := 0x42 })).map (·.eip) =
      some 0x0000200F := by decide

/-! ### Steps -/

/-- A word placed where step fetches runs as the first instruction after reset. -/
theorem test_withFetchWord :
    (nextOf (step (State.reset.withFetchWord 16 0x0FA2))).map (fun t => (t.eax, t.ebx, t.eip)) =
      some (0x00000001, 0x68747541, 0x00000002) ∧
    (nextOf (step (State.reset.withFetchWord 8 0xB8))).map (·.eip) = some 0x00000005 := by decide

/-- V6 row 6 and R73: a prefixed CPUID is refused, and so is a fetched byte that was stored. -/
theorem test_step_refuses :
    refusalOf (step (base.loadBytes 0x1000 [0x66, 0x0F, 0xA2])) =
      some (.encoding (.prefixByte 0x66)) ∧
    refusalOf (step { base.loadBytes 0x1000 [0x9C] with written := [0x1000] }) =
      some .fetchOfStoredByte := by decide

/-! ### Witnesses: for each statement with hypotheses, states and operands that meet them all -/

/-- CPUID at EIP 1000h; its last place in the address space is FFFF_FFFDh. -/
theorem witness_placed : Placed 2 base ∧ Placed 2 { base with eip := 0xFFFFFFFD } := by
  constructor <;> (unfold Placed; decide)

theorem witness_CpuidWritesItsFunctionAndNothingElse : Placed 2 base := witness_placed.1

theorem witness_CpuidVendorString : base.eax = 0 ∧ base.cfg.proc ≠ .k6p_3dM9 ∧ Placed 2 base :=
  ⟨rfl, by decide, witness_placed.1⟩

theorem witness_CpuidSignatureFields :
    ({ base with eax := 1 } : State).eax = 1 ∧ base.cfg.proc ≠ .k6p_3dM9 ∧
      Placed 2 { base with eax := 1 } :=
  ⟨rfl, by decide, witness_placed.1⟩

/-- A row of a table of 41_cpuid_values.md has an input state. -/
theorem cpuidRow_has_input (c : Config) (f : Word) :
    ∃ s : State, s.cfg = c ∧ s.eax = f ∧ Placed 2 s :=
  ⟨{ base with cfg := c, eax := f }, rfl, rfl, witness_placed.1⟩

theorem witness_CpuidValuesAm486 : (onProc .am486_5x86 4).proc = .am486_5x86 ∧
    (0x80000001 : Word) ≤ 0x80000001 ∧ (0x80000005 : Word) ≤ 0x80000005 := by decide

theorem witness_CpuidValuesK5Model0 : (onProc .k5M0 1).proc = .k5M0 := rfl

theorem witness_CpuidValuesK5Models123 :
    (Proc.k5M3, (0x00000530 : Word)) ∈ [(Proc.k5M1, (0x00000510 : Word)), (Proc.k5M2, 0x00000520),
      (Proc.k5M3, 0x00000530)] ∧ (onProc .k5M3 0xF).proc = .k5M3 := by decide

theorem witness_CpuidValuesK6Model6 : (onProc .k6M6 2).proc = .k6M6 := rfl

theorem witness_CpuidValuesK6Model7 : (onProc .k6M7 0).proc = .k6M7 ∧ (onProc .k6M7 0).stepping = 0 ∧
    (onProc .k6M7 1).proc = .k6M7 ∧ (onProc .k6M7 1).stepping ≠ 0 := by decide

theorem witness_CpuidValuesK63DModel8 : (onProc .k6_3dM8 0).proc = .k6_3dM8 := rfl

/-- One state for each of the eight clauses. -/
theorem witness_CpuidValuesModel9 : ∀ f ∈ [(0x00000000 : Word), 0x00000001, 0x80000000, 0x80000001,
      0x80000002, 0x80000003, 0x80000004, 0x80000005],
    ∃ s : State, s.cfg.proc = .k6p_3dM9 ∧ s.eax = f ∧ Placed 2 s :=
  fun f _ => ⟨{ base with cfg := onProc .k6p_3dM9 0, eax := f }, rfl, rfl, witness_placed.1⟩

/-- V2 rows 1 to 8: the ends of the ranges no source defines, and "Undefined" functions. -/
theorem witness_CpuidUndefinedFunctionsDraw :
    (∀ f ∈ [(0x00000002 : Word), 0x7FFFFFFF, 0x80000006, 0x8FFFFFFF, 0x90000000, 0xFFFFFFFF],
      f ≠ 0 ∧ f ≠ 1 ∧ f ≠ 0x80000000 ∧ ¬ (0x80000001 ≤ f ∧ f ≤ 0x80000005)) ∧
    (onProc .k5M0 0).hasExt = false ∧ (0x80000001 : Word) ≠ 0x80000000 :=
  ⟨by simp, rfl, by decide⟩

theorem witness_CpuidDependsOnFunctionNumberOnly :
    ({ base with cpl := 3, ebx := 5, eflags := 0x00220002 } : State).cfg = base.cfg ∧
    ({ base with cpl := 3, ebx := 5, eflags := 0x00220002 } : State).eax = base.eax ∧
    ({ base with cpl := 3, ebx := 5, eflags := 0x00220002 } : State).draws = base.draws ∧
    Placed 2 base := ⟨rfl, rfl, rfl, witness_placed.1⟩

theorem witness_FeatureWordsDecoded : (onProc .k6M7 1).proc ≠ .k6p_3dM9 ∧
    (onProc .k6M7 1).extData = some (extDataK6 0x008009BF) ∧
    23 ∉ stdReservedBits .k5M0 ∧ 13 ∈ stdReservedBits .k5M0 ∧ 30 ∈ extReservedBits := by decide

theorem witness_NameStringsDecoded : (onProc .k5M2 0).proc = .k5M2 ∧ (onProc .k6M7 0).proc = .k6M7 ∧
    (onProc .k6_3dM8 0).proc = .k6_3dM8 := by decide

theorem witness_CacheInformationDecoded : (onProc .k5M1 0).proc = .k5M1 ∧
    (onProc .k6_3dM8 0).proc = .k6_3dM8 := by decide

/-- SYSCALL in an enabled user program, and at FFFF_FFFDh. -/
theorem witness_SyscallEntersTheOperatingSystem : SystemCallReady beforeSyscall ∧
    SystemCallReady { beforeSyscall with eip := 0xFFFFFFFD } := by
  constructor <;> exact ⟨by decide, by decide, by unfold Placed; decide⟩

theorem witness_SysretReturnsToTheApplication : SystemCallReady beforeSysret ∧ beforeSysret.cpl = 0 :=
  ⟨⟨by decide, by decide, by unfold Placed; decide⟩, rfl⟩

theorem witness_StackSelectorIsTheNextDescriptor :
    (∃ t, exec .syscall { beforeSyscall with star := 0x001BFFF880100000 } = .next t) ∧
    ∃ t, exec .sysret beforeSysret = .next t :=
  ⟨exists_next (by decide), exists_next (by decide)⟩

theorem witness_PrivilegeIsForcedApartFromSelectors :
    (∃ t, exec .syscall { beforeSyscall with star := 0x0018000B80100000 } = .next t) ∧
    ∃ t, exec .sysret { beforeSysret with star := 0x0018000B80100000 } = .next t :=
  ⟨exists_next (by decide), exists_next (by decide)⟩

theorem witness_SystemCallsAreInvalidWhileDisabled :
    ({ beforeSyscall with efer := 0 } : State).cfg.hasSyscall = true ∧
    Placed 2 { beforeSyscall with efer := 0 } ∧
    ({ beforeSyscall with efer := 0 } : State).efer.getLsbD base.cfg.sceBit = false :=
  ⟨by decide, by unfold Placed; decide, by decide⟩

theorem witness_SysretNeedsPrivilegeLevelZero :
    SystemCallReady { beforeSysret with cpl := 1 } ∧ ({ beforeSysret with cpl := 1 } : State).cpl ≠ 0 :=
  ⟨⟨by decide, by decide, by unfold Placed; decide⟩, by decide⟩

theorem witness_SystemCallsAreRefusedWithoutTheFeature :
    ({ base with cfg := onProc .k6M7 0 } : State).cfg.hasSyscall = false ∧
    Placed 2 { base with cfg := onProc .k6M7 0 } := ⟨by decide, witness_placed.1⟩

theorem witness_SystemCallFeatureIsCpuidBit11 :
    ({ base with eax := 0x80000001 } : State).eax = 0x80000001 ∧ base.cfg.hasExt = true ∧
    Placed 2 { base with eax := 0x80000001 } ∧ (onProc .k5M0 0).hasExt = false :=
  ⟨rfl, by decide, witness_placed.1, by decide⟩

/-- SYSCALL, then SYSRET from the state it leaves. -/
theorem witness_SyscallSysretPair : ∃ t, exec .syscall beforeSyscall = .next t ∧ t.cpl = 0 ∧ Placed 2 t := by
  refine ⟨_, rfl, rfl, ?_⟩
  unfold Placed
  decide

theorem witness_PrivilegeTable : SystemCallReady beforeSysret ∧ beforeSysret.cpl = 0 ∧
    SystemCallReady beforeSyscall ∧ beforeSyscall.cpl ≠ 0 :=
  ⟨witness_SysretReturnsToTheApplication.1, rfl, witness_SyscallEntersTheOperatingSystem.1, by decide⟩

/-- The sample-code conditions, for every length, and both stack directions. -/
theorem ready : SampleReady 1 base ∧ SampleReady 2 base ∧ SampleReady 5 base ∧ SampleReady 6 base ∧
    StackReady base.esp base ∧ StackReady (base.esp - 4) base := by
  refine ⟨⟨by decide, ?_⟩, ⟨by decide, ?_⟩, ⟨by decide, ?_⟩, ⟨by decide, ?_⟩, ?_, ?_⟩
  · unfold Placed; decide
  · unfold Placed; decide
  · unfold Placed; decide
  · unfold Placed; decide
  · exact ⟨rfl, rfl, rfl, by decide⟩
  · exact ⟨rfl, rfl, rfl, by decide⟩

theorem witness_PushfdPushesTheFlagsImage : SampleReady 1 base ∧ StackReady (base.esp - 4) base ∧
    base.cfg.vmBit.val = 17 := ⟨ready.1, ready.2.2.2.2.2, rfl⟩

theorem witness_PopfdWritesTheWritableFlags : SampleReady 1 base ∧ StackReady base.esp base ∧
    base.cfg.ifBit.val = 9 := ⟨ready.1, ready.2.2.2.2.1, rfl⟩

/-- Also at the top of the address space: ESP = 0 pushes to FFFF_FFFCh. -/
theorem witness_PushStoresTheRegister : SampleReady 1 base ∧ StackReady (base.esp - 4) base ∧
    StackReady (0 - 4) { base with esp := 0 } :=
  ⟨ready.1, ready.2.2.2.2.2, ⟨rfl, rfl, rfl, by decide⟩⟩

/-- Also at the top of the address space: ESP = FFFF_FFFCh. -/
theorem witness_PopLoadsTheRegister : SampleReady 1 base ∧ StackReady base.esp base ∧
    StackReady 0xFFFFFFFC { base with esp := 0xFFFFFFFC } :=
  ⟨ready.1, ready.2.2.2.2.1, ⟨rfl, rfl, rfl, by decide⟩⟩

theorem witness_MovCopiesAndLoads : SampleReady 2 base ∧ SampleReady 5 base := ⟨ready.2.1, ready.2.2.1⟩

theorem witness_XorWritesEaxAndLogicFlags : SampleReady 5 base := ready.2.2.1

theorem witness_CmpSetsTheSubtractionFlags : SampleReady 2 base := ready.2.1

theorem witness_TestSetsTheLogicFlags : SampleReady 6 base := ready.2.2.2.1

theorem witness_ConditionalJumps : SampleReady 2 base := ready.2.1

/-- A one-byte instruction at FFFF_FFFFh and a two-byte one at FFFF_FFFEh, the first places that reach
2^32. -/
theorem witness_notPlaced : ¬ Placed 1 { base with eip := 0xFFFFFFFF } ∧
    ¬ Placed 2 { base with eip := 0xFFFFFFFE } ∧ base.eflags.getLsbD base.cfg.vmBit = false := by
  refine ⟨?_, ?_, by decide⟩ <;> (unfold Placed; decide)

/-- One state per clause: VM = 1; a next program counter at 2^32; a base that is not 0; a read-only
segment; a pop from FFFF_FFFDh, the first offset that wraps. -/
theorem witness_StackInstructionsAreRefusedOutsideTheirConditions :
    ({ base with eflags := 0x00020002 } : State).eflags.getLsbD base.cfg.vmBit = true ∧
    (base.eflags.getLsbD base.cfg.vmBit = false ∧ ¬ Placed 1 { base with eip := 0xFFFFFFFF }) ∧
    SampleReady 1 { base with ss := ⟨0, 1, 0xFFFFFFFF, .ssFlat⟩ } ∧
    SegAttr.writable .csFlat = false ∧ SegAttr.writable .ssFlat = true ∧
    SampleReady 1 { base with esp := 0xFFFFFFFD } ∧ spaceSize < (0xFFFFFFFD : Word).toNat + 4 :=
  ⟨by decide, ⟨witness_notPlaced.2.2, witness_notPlaced.1⟩, ⟨ready.1.vmClear, ready.1.placed⟩, rfl, rfl,
    ⟨ready.1.vmClear, ready.1.placed⟩, by decide⟩

theorem witness_SampleCodeIsRefusedInVirtual8086Mode :
    Instr.movR32R32 .eax .ebx ≠ .cpuid ∧ Instr.movR32R32 .eax .ebx ≠ .syscall ∧
    Instr.movR32R32 .eax .ebx ≠ .sysret ∧
    ({ base with eflags := 0x00020002 } : State).eflags.getLsbD base.cfg.vmBit = true := by decide

/-- V3 row 11 for SYSCALL; CPUID at the same place with VM = 1, and PUSHFD at the last byte with VM = 0.
-/
theorem witness_InstructionsReachingTheTopAreRefused :
    ¬ Placed (Instr.length .syscall) { base with eip := 0xFFFFFFFE } ∧
    ¬ Placed (Instr.length .cpuid) { base with eip := 0xFFFFFFFE, eflags := 0x00020002 } ∧
    ¬ Placed (Instr.length .pushfd) { base with eip := 0xFFFFFFFF } ∧
    base.eflags.getLsbD base.cfg.vmBit = false :=
  ⟨witness_notPlaced.2.1, witness_notPlaced.2.1, witness_notPlaced.1, witness_notPlaced.2.2⟩

theorem witness_PushThenPopCarriesTheValue : ∃ t, exec (.pushR32 .eax) base = .next t ∧
    SampleReady 1 t := by
  refine ⟨_, rfl, ⟨by decide, ?_⟩⟩
  unfold Placed
  decide

theorem witness_IdBitIsWriteable : base.cfg.flagsApart ∧ SampleReady 1 base ∧
    StackReady base.esp base ∧ StackReady (base.esp - 4) base ∧ Placed 2 base :=
  ⟨by decide, ready.1, ready.2.2.2.2.1, ready.2.2.2.2.2, witness_placed.1⟩

theorem witness_OnlyPushesStore : (∃ t, exec .cpuid base = .next t) ∧ ∃ t, exec .pushfd base = .next t :=
  ⟨exists_next (by decide), exists_next (by decide)⟩

/-- PUSH EAX changes the byte at FFFCh; the step from its next state, with POP EBX in memory there,
goes on. -/
def pushing : State := { base.loadBytes 0x1001 [0x5B] with eax := 0x11111111 }

theorem witness_ChangedBytesAreNeverFetched :
    (nextOf (exec (.pushR32 .eax) pushing)).map
      (fun t => (Memory.read t.mem 0xFFFC, (nextOf (step t)).isSome)) = some (0x11, true) ∧
    Memory.read pushing.mem 0xFFFC = 0x00 := by decide

theorem witness_DecodeAcceptsOnlyTheTable : ∃ i rest, decode [0x89, 0xC3, 0x90] = .ok (i, rest) :=
  exists_decode (by decide)

/-- One pair of bytes per clause, the first at the last address of the space. -/
theorem witness_OtherBytesAreRefused :
    CodeFlat { base with eip := 0xFFFFFFFF, mem := [(0xFFFFFFFF, 0x90)] } ∧
    (0x90 : Byte) ∉ ([0x0F, 0x9C, 0x9D, 0x35, 0x74, 0x75, 0x8B, 0x89, 0x3B, 0x39, 0xF7] : List Byte) ∧
    ((0x90 : Byte).extractLsb' 3 5 ≠ 0x0A ∧ (0x90 : Byte).extractLsb' 3 5 ≠ 0x0B ∧
      (0x90 : Byte).extractLsb' 3 5 ≠ 0x17) ∧
    (0xFFFFFFFE : Word).toNat + 1 < spaceSize ∧
    (0x06 : Byte) ∉ ([0xA2, 0x05, 0x07] : List Byte) ∧
    (0xBF : Byte).extractLsb' 6 2 ≠ 3 ∧ (0xC8 : Byte).extractLsb' 3 5 ≠ 0x18 :=
  ⟨⟨rfl, rfl⟩, by decide⟩

/-- CPUID in memory at EIP. -/
def atCpuid : State := base.loadBytes 0x1000 [0x0F, 0xA2]

theorem witness_StepExecutesTheDecodedInstruction : CodeFlat atCpuid ∧
    (∃ rest, decode atCpuid.fetchBytes = .ok (.cpuid, rest)) ∧
    ∀ k, k < Instr.length .cpuid → atCpuid.eip.toNat + k ∉ atCpuid.written :=
  ⟨⟨rfl, rfl⟩, ⟨_, rfl⟩, by decide⟩

/-- Both encodings of MOV EBX, EAX. -/
theorem witness_StepExecutesTheInstructionInMemory :
    Instr.wellFormedAt base.eip (.movR32R32 .ebx .eax) = true ∧
    CodeAt (encode (.movR32R32 .ebx .eax)) (base.loadBytes 0x1000 [0x8B, 0xD8]) ∧
    CodeAt (encodeAlternative (.movR32R32 .ebx .eax)) (base.loadBytes 0x1000 [0x89, 0xC3]) :=
  ⟨by decide, ⟨⟨rfl, rfl⟩, by decide, by decide⟩, ⟨⟨rfl, rfl⟩, by decide, by decide⟩⟩

theorem witness_StepsKeepTheFetchConditions : ∃ t, step atCpuid = .next t := exists_next (by decide)

theorem witness_ControlGoesWhereTheRulesSay : (∃ t, exec .syscall beforeSyscall = .next t) ∧
    (∃ t, exec .sysret beforeSysret = .next t) ∧ (∃ t, exec (.jzRel8 0x80) base = .next t) ∧
    ∃ t, exec .pushfd base = .next t :=
  ⟨exists_next (by decide), exists_next (by decide), exists_next (by decide), exists_next (by decide)⟩

/-- P7 (a) and (b): both faults happen. -/
theorem witness_OnlyTheTwoExceptionsAreRaised :
    (∃ r, step { beforeSyscall.loadBytes 0x401000 [0x0F, 0x05] with efer := 0 } = .fault r) ∧
    ∃ r, step (beforeSyscall.loadBytes 0x401000 [0x0F, 0x07]) = .fault r :=
  ⟨exists_fault (by decide), exists_fault (by decide)⟩

theorem witness_OnlySystemCallsChangeTheSystemState : ∃ t, exec .cpuid base = .next t :=
  exists_next (by decide)

/-- Each of the three changes IF. -/
theorem witness_InterruptFlagChangesOnlyByThree : base.cfg.flagsApart ∧
    (nextOf (exec .syscall beforeSyscall)).map (·.eflags.getLsbD 9) = some false ∧
    beforeSyscall.eflags.getLsbD 9 = true ∧
    (nextOf (exec .sysret beforeSysret)).map (·.eflags.getLsbD 9) = some true ∧
    beforeSysret.eflags.getLsbD 9 = false ∧
    (nextOf (exec .popfd { base with mem := [(0x10001, 0x02)] })).map (·.eflags.getLsbD 9) = some true ∧
    base.eflags.getLsbD 9 = false := by decide

/-- One step from level 3 to level 0. -/
theorem witness_LevelZeroIsEnteredOnlyThroughStar :
    ∃ t, Host.Core.run Sys2Proof.core 1 (beforeSyscall.loadBytes 0x401000 [0x0F, 0x05]) = .next t ∧
      beforeSyscall.cpl ≠ 0 ∧ State.cpl t = 0 := by
  refine ⟨_, rfl, by decide, rfl⟩

theorem witness_StepKeepsTheInvariant : atCpuid.Inv ∧ ∃ t, step atCpuid = .next t :=
  ⟨⟨by decide, by decide, by decide, by decide, by decide⟩, exists_next (by decide)⟩

theorem witness_HostWritesTheNamedMsrs : base.cfg.hasSyscall = true ∧
    (0xC0000080 : Word) ≠ 0xC0000081 ∧ (0xC0000082 : Word) ≠ 0xC0000080 ∧
    (0xC0000082 : Word) ≠ 0xC0000081 := by decide

end Sys2Proof.Tests
end

section
/-! PROOFS. The statements about the state as a whole (10_state.md): what every instruction asks of the
program counter, where EIP goes, what system state it leaves alone, the ID bit, reset and the host. -/

namespace Sys2Proof.Machine

/-! ### What every instruction asks of the program counter -/

/-- The three instructions the sources define look at the next program counter before anything else
(R23). -/
theorem exec_eq_withNextPc {i : Instr} (h : i = .cpuid ∨ i = .syscall ∨ i = .sysret) (s : State) :
    ∃ k, exec i s = withNextPc i.length s k := by
  obtain rfl | rfl | rfl := h
  · exact ⟨_, by rw [exec, execCpuid]; rfl⟩
  · exact ⟨_, by rw [exec, execSyscall, systemCallEnabled]; rfl⟩
  · exact ⟨_, by rw [exec, execSysret, systemCallEnabled]; rfl⟩

/-- The other eleven are the sample-code instructions: each has the common conditions first (R201 (f),
R23). -/
theorem exec_eq_sampleCode {i : Instr} (h : ¬ (i = .cpuid ∨ i = .syscall ∨ i = .sysret)) (s : State) :
    ∃ k, exec i s = sampleCode i.length s k := by
  cases i with
  | cpuid => exact absurd (.inl rfl) h
  | syscall => exact absurd (.inr (.inl rfl)) h
  | sysret => exact absurd (.inr (.inr rfl)) h
  | _ => exact ⟨_, rfl⟩

/-- An instruction that goes on has its next program counter below 2^32 (R23, D8). -/
theorem exec_next_placed {i : Instr} {s t : State} (h : exec i s = .next t) : Placed i.length s := by
  by_cases hi : i = .cpuid ∨ i = .syscall ∨ i = .sysret
  · obtain ⟨k, hk⟩ := exec_eq_withNextPc hi s
    exact (withNextPc_next (hk ▸ h)).1
  · obtain ⟨k, hk⟩ := exec_eq_sampleCode hi s
    obtain ⟨-, hp, -⟩ := sampleCode_next (hk ▸ h)
    exact hp

/-- Settles O57: the three instructions of the sources by their first check, the sample-code
instructions by theirs, once VM = 0. -/
theorem instructionsReachingTheTopAreRefused : Obligations.InstructionsReachingTheTopAreRefused := by
  intro i s hp hcase
  by_cases hi : i = .cpuid ∨ i = .syscall ∨ i = .sysret
  · obtain ⟨k, hk⟩ := exec_eq_withNextPc hi s
    rw [hk, withNextPc_past hp]
  · obtain ⟨k, hk⟩ := exec_eq_sampleCode hi s
    have hvm : s.vm = false := by tauto
    rw [hk, sampleCode_past hvm hp]

/-! ### What a step that goes on has fetched -/

theorem codeFlat_iff {s : State} : CodeFlat s ↔ s.cs.flat = true := by
  rw [SegReg.flat_iff]
  exact ⟨fun h => ⟨h.base, h.limit⟩, fun ⟨hb, hl⟩ => ⟨hb, hl⟩⟩

/-- No instruction stored to any of the `n` bytes from address `a` on (R73). -/
theorem State.storedIn_eq_false_iff {s : State} {a n : Nat} :
    s.storedIn a n = false ↔ ∀ k, k < n → a + k ∉ s.written := by
  simp only [State.storedIn, List.any_eq_false, Bool.and_eq_true, decide_eq_true_eq]
  constructor
  · intro h k hk hmem
    exact h _ hmem (by omega)
  · rintro h w hw ⟨hle, hlt⟩
    exact h (w - a) (by omega) (by rwa [Nat.add_sub_cancel' hle])

/-- Settles O47: the fetch conditions come from the fetch, the room below 2^32 from the instruction
that it gave. -/
theorem stepsKeepTheFetchConditions : Obligations.StepsKeepTheFetchConditions := by
  intro s t h
  obtain ⟨i, hf, hx⟩ := step_next h
  obtain ⟨hflat, -, hstored⟩ := fetch_ok hf
  have hcode := codeFlat_iff.2 hflat
  rw [State.fetchAddress_flat hcode.base, State.storedIn_eq_false_iff] at hstored
  exact ⟨hcode, i, hf, decide_eq_true (exec_next_placed hx), hstored⟩

/-! ### The system state under the named updates -/

theorem SameSystem.refl (s : State) : SameSystem s s := ⟨rfl, rfl, rfl, rfl, rfl, rfl⟩

theorem SameSystem.setReg {s t : State} (h : SameSystem s t) (r : Reg) (v : Word) :
    SameSystem s (t.setReg r v) :=
  ⟨(t.setReg_cfg r v).trans h.cfg, (t.setReg_cs r v).trans h.cs, (t.setReg_ss r v).trans h.ss,
    (t.setReg_cpl r v).trans h.cpl, (t.setReg_efer r v).trans h.efer, (t.setReg_star r v).trans h.star⟩

theorem SameSystem.setEip {s t : State} (h : SameSystem s t) (v : Word) : SameSystem s (t.setEip v) :=
  ⟨h.cfg, h.cs, h.ss, h.cpl, h.efer, h.star⟩

theorem SameSystem.setEflags {s t : State} (h : SameSystem s t) (v : Word) :
    SameSystem s (t.setEflags v) :=
  ⟨h.cfg, h.cs, h.ss, h.cpl, h.efer, h.star⟩

theorem SameSystem.useDraws {s t : State} (h : SameSystem s t) (n : Nat) :
    SameSystem s (t.useDraws n) :=
  ⟨h.cfg, h.cs, h.ss, h.cpl, h.efer, h.star⟩

theorem SameSystem.storeWord {s t : State} (h : SameSystem s t) (a : Nat) (v : Word) :
    SameSystem s (t.storeWord a v) :=
  ⟨h.cfg, h.cs, h.ss, h.cpl, h.efer, h.star⟩

theorem SameSystem.setQuad {s t : State} (h : SameSystem s t) (q : Quad) : SameSystem s (t.setQuad q) :=
  ⟨h.cfg, h.cs, h.ss, h.cpl, h.efer, h.star⟩

/-! ### EIP and the system state after an instruction -/

/-- EIP after an instruction that goes on from `s` (R12, R23, R182, R185, R211, R212). -/
def eipAfter (i : Instr) (s : State) : Word :=
  match i with
  | .syscall => s.starTarget
  | .sysret => s.ecx
  | .jzRel8 rel => if s.zf then branchTarget (s.eip + 2) rel else s.eip + 2
  | .jnzRel8 rel => if !s.zf then branchTarget (s.eip + 2) rel else s.eip + 2
  | i => s.eip + BitVec.ofNat 32 i.length

/-- An instruction other than SYSCALL and SYSRET that goes on leaves the system state alone and ends
with its write of EIP. -/
theorem exec_next_setEip {i : Instr} {s t : State} (h : exec i s = .next t) (hc : i ≠ .syscall)
    (hr : i ≠ .sysret) : ∃ u, SameSystem s u ∧ t = u.setEip (eipAfter i s) := by
  have hs := SameSystem.refl s
  cases i with
  | cpuid =>
    obtain ⟨-, rfl⟩ := execCpuid_next h
    exact ⟨_, (hs.setQuad _).useDraws _, rfl⟩
  | syscall => exact absurd rfl hc
  | sysret => exact absurd rfl hr
  | pushfd =>
    obtain ⟨-, -, -, -, -, rfl⟩ := execPushfd_next h
    exact ⟨_, (hs.storeWord _ _).setReg _ _, rfl⟩
  | popfd =>
    obtain ⟨-, -, -, -, -, rfl⟩ := execPopfd_next h
    exact ⟨_, (hs.setReg _ _).setEflags _, rfl⟩
  | pushR32 r =>
    obtain ⟨-, -, -, -, -, rfl⟩ := execPushR32_next h
    exact ⟨_, (hs.storeWord _ _).setReg _ _, rfl⟩
  | popR32 r =>
    obtain ⟨-, -, -, -, -, rfl⟩ := execPopR32_next h
    exact ⟨_, (hs.setReg _ _).setReg _ _, rfl⟩
  | movR32R32 a b =>
    obtain ⟨-, -, rfl⟩ := execMovR32R32_next h
    exact ⟨_, hs.setReg _ _, rfl⟩
  | movR32Imm32 r imm =>
    obtain ⟨-, -, rfl⟩ := execMovR32Imm32_next h
    exact ⟨_, hs.setReg _ _, rfl⟩
  | xorEaxImm32 imm =>
    obtain ⟨-, -, rfl⟩ := execXorEaxImm32_next h
    exact ⟨_, ((hs.setReg _ _).setEflags _).useDraws _, rfl⟩
  | cmpR32R32 a b =>
    obtain ⟨-, -, rfl⟩ := execCmpR32R32_next h
    exact ⟨_, hs.setEflags _, rfl⟩
  | testR32Imm32 r imm =>
    obtain ⟨-, -, rfl⟩ := execTestR32Imm32_next h
    exact ⟨_, (hs.setEflags _).useDraws _, rfl⟩
  | jzRel8 rel =>
    obtain ⟨-, -, rfl⟩ := execJzRel8_next h
    exact ⟨_, hs, rfl⟩
  | jnzRel8 rel =>
    obtain ⟨-, -, rfl⟩ := execJnzRel8_next h
    exact ⟨_, hs, rfl⟩

/-- Only SYSCALL and SYSRET write CPL, CS or SS (R38, R182, R185). -/
theorem exec_next_sameSystem {i : Instr} {s t : State} (h : exec i s = .next t) (hc : i ≠ .syscall)
    (hr : i ≠ .sysret) : SameSystem s t := by
  obtain ⟨u, hu, rfl⟩ := exec_next_setEip h hc hr
  exact hu.setEip _

/-- No instruction writes EFER, STAR or the configuration (R32, R38, D22). -/
theorem exec_next_msrs_cfg {i : Instr} {s t : State} (h : exec i s = .next t) :
    t.efer = s.efer ∧ t.star = s.star ∧ t.cfg = s.cfg := by
  by_cases hc : i = .syscall
  · subst hc
    obtain ⟨-, -, -, rfl⟩ := execSyscall_next h
    exact ⟨rfl, rfl, rfl⟩
  by_cases hr : i = .sysret
  · subst hr
    obtain ⟨-, -, -, -, rfl⟩ := execSysret_next h
    exact ⟨rfl, rfl, rfl⟩
  have hs := exec_next_sameSystem h hc hr
  exact ⟨hs.efer, hs.star, hs.cfg⟩

/-- Settles O50: the MSRs and the configuration for all fourteen instructions, CPL, CS and SS for the
twelve that are no system call. -/
theorem onlySystemCallsChangeTheSystemState : Obligations.OnlySystemCallsChangeTheSystemState := by
  intro i s t h
  obtain ⟨hefer, hstar, hcfg⟩ := exec_next_msrs_cfg h
  refine ⟨hefer, hstar, hcfg, fun hc hr => ?_⟩
  have hs := exec_next_sameSystem h hc hr
  exact ⟨hs.cpl, hs.cs, hs.ss⟩

theorem exec_next_eip {i : Instr} {s t : State} (h : exec i s = .next t) : t.eip = eipAfter i s := by
  by_cases hc : i = .syscall
  · subst hc
    obtain ⟨-, -, -, rfl⟩ := execSyscall_next h
    rfl
  by_cases hr : i = .sysret
  · subst hr
    obtain ⟨-, -, -, -, rfl⟩ := execSysret_next h
    rfl
  obtain ⟨u, -, rfl⟩ := exec_next_setEip h hc hr
  rfl

/-- The target of a jump as a sum of integers modulo 2^32, the displacement being signed (R211). -/
theorem branchTarget_eq_ofInt (pc : Word) (rel : BitVec 8) :
    branchTarget (pc + 2) rel = BitVec.ofInt 32 (pc.toNat + 2 + rel.toInt) := by
  rw [BitVec.ofInt_add, BitVec.ofInt_add, BitVec.ofInt_natCast, BitVec.ofNat_toNat, BitVec.setWidth_eq]
  rfl

/-- EIP after either conditional jump: past the jump or at its target (R211, R212). -/
theorem eipAfter_jump {i : Instr} {rel : BitVec 8} (hi : i = .jzRel8 rel ∨ i = .jnzRel8 rel)
    (s : State) : eipAfter i s = s.eip + 2 ∨
      eipAfter i s = BitVec.ofInt 32 (s.eip.toNat + 2 + rel.toInt) := by
  rw [← branchTarget_eq_ofInt]
  obtain rfl | rfl := hi
  all_goals exact (ite_eq_or_eq ..).symm

/-- EIP after an instruction that is no system call and no jump: the next instruction (R12, R23). -/
theorem eipAfter_straight {i : Instr} (hc : i ≠ .syscall) (hr : i ≠ .sysret)
    (hj : ∀ rel, i ≠ .jzRel8 rel ∧ i ≠ .jnzRel8 rel) (s : State) :
    eipAfter i s = s.eip + BitVec.ofNat 32 i.length := by
  cases i with
  | syscall => exact absurd rfl hc
  | sysret => exact absurd rfl hr
  | jzRel8 rel => exact absurd rfl (hj rel).1
  | jnzRel8 rel => exact absurd rfl (hj rel).2
  | _ => rfl

/-- Settles O48: EIP is `eipAfter`, read off for each kind of instruction. -/
theorem controlGoesWhereTheRulesSay : Obligations.ControlGoesWhereTheRulesSay := by
  intro i s t h
  rw [exec_next_eip h]
  refine ⟨?_, ?_, fun rel hi => eipAfter_jump hi s, fun ⟨hc, hr, hj⟩ => eipAfter_straight hc hr hj s⟩
  · rintro rfl; rfl
  · rintro rfl; rfl

/-! ### The ID bit -/

theorem StackReady.flat {off : Word} {s : State} (h : StackReady off s) : s.ss.flat = true :=
  s.ss.flat_iff.2 ⟨h.base, h.limit⟩

theorem execPopfd_of {s : State} (hr : SampleReady 1 s) (hs : StackReady s.esp s) :
    exec .popfd s = .next (((s.setReg .esp (s.esp + 4)).setEflags
      (popfdFlags s (Memory.readWord s.mem s.esp.toNat))).setEip (s.eip + 1)) :=
  (sampleCode_of hr.vmClear hr.placed _).trans (pop32_of hs.flat hs.writable hs.noWrap _)

theorem execPushfd_of {s : State} (hr : SampleReady 1 s) (hs : StackReady (s.esp - 4) s) :
    exec .pushfd s = .next (((s.storeWord (s.esp - 4).toNat (pushfdImage s)).setReg .esp
      (s.esp - 4)).setEip (s.eip + 1)) :=
  (sampleCode_of hr.vmClear hr.placed _).trans (push32_of hs.flat hs.writable hs.noWrap _)

theorem execCpuid_of {s : State} (hp : Placed 2 s) :
    exec .cpuid s = .next (((s.setQuad (s.cfg.cpuidFn s.eax s.cpuidDraws)).useDraws 4).setEip
      (s.eip + 2)) := by
  change execCpuid s = _
  exact (withNextPc_of hp _).trans (if_pos (hasCpuid_true _))

/-- The ID bit is in W of POPFD on every processor, at every CPL (R25, R203). -/
theorem popfdFlags_id (s : State) (v : Word) : (popfdFlags s v).getLsbD 21 = v.getLsbD 21 := by
  have hmask : (popfdMask s).getLsbD 21 = true := by
    rw [popfdMask_bit s 21 (by decide)]
    simp
  rw [getLsbD_popfdFlags s v 21 (by decide), hmask]
  simp

/-- PUSHFD pushes the ID bit as it stands, VM being elsewhere (R25, R202). -/
theorem pushfdImage_id {s : State} (h : s.cfg.vmBit.val ≠ 21) :
    (pushfdImage s).getLsbD 21 = s.eflags.getLsbD 21 := by
  simp [pushfdImage, h.symm]

/-- Settles O37: bit 21 is in POPFD's mask, in PUSHFD's image, and CPUID writes no flag. -/
theorem idBitIsWriteable : Obligations.IdBitIsWriteable := by
  intro s ⟨_, hvm, _⟩
  have hvm21 : s.cfg.vmBit.val ≠ 21 := fun h => hvm (by simp [h])
  refine ⟨fun hr hs => ⟨_, execPopfd_of hr hs, ?_⟩, fun hr hs => ⟨_, execPushfd_of hr hs, ?_⟩,
    fun hp => ⟨_, execCpuid_of hp, rfl⟩⟩
  · exact popfdFlags_id s _
  · have hread := Memory.readWord_writeWord s.mem (s.esp - 4).toNat (pushfdImage s)
    exact (congrArg (·.getLsbD 21) hread).trans (pushfdImage_id hvm21)

/-! ### Reset and the host's writes -/

/-- Settles O54: no listed byte and no stored address at reset, and the other three by evaluation. -/
theorem resetSatisfiesTheInvariant : Obligations.ResetSatisfiesTheInvariant where
  flagsApart := by decide
  memory := by decide
  stored := by decide
  alwaysOne := by decide
  privilege := .inl rfl

theorem State.hostWriteMsr_efer {s : State} (h : s.cfg.hasSyscall = true) (v : MsrWord) :
    s.hostWriteMsr msrEfer v = some { s with efer := v } := by
  simp [State.hostWriteMsr, h]

theorem State.hostWriteMsr_star {s : State} (h : s.cfg.hasSyscall = true) (v : MsrWord) :
    s.hostWriteMsr msrStar v = some { s with star := v } := by
  simp [State.hostWriteMsr, h, msrEfer, msrStar]

theorem State.msr_efer {s : State} (h : s.cfg.hasSyscall = true) : s.msr msrEfer = some s.efer := by
  simp [State.msr, h]

theorem State.msr_star {s : State} (h : s.cfg.hasSyscall = true) : s.msr msrStar = some s.star := by
  simp [State.msr, h, msrEfer, msrStar]

/-- No number but those of EFER and STAR names a register (R32). -/
theorem State.msr_unnamed (s : State) {n : Word} (he : n ≠ msrEfer) (hs : n ≠ msrStar) (v : MsrWord) :
    s.hostWriteMsr n v = none ∧ s.msr n = none := by
  simp [State.hostWriteMsr, State.msr, he, hs]

/-- Settles O55: what the host wrote reads back through the same number. -/
theorem hostWritesTheNamedMsrs : Obligations.HostWritesTheNamedMsrs := by
  intro s n v hfeature
  refine ⟨?_, ?_, fun he hs => s.msr_unnamed he hs v⟩
  · rintro rfl
    have hw := State.hostWriteMsr_efer hfeature v
    exact ⟨hw, _, hw, State.msr_efer hfeature⟩
  · rintro rfl
    have hw := State.hostWriteMsr_star hfeature v
    exact ⟨hw, _, hw, State.msr_star hfeature⟩

end Sys2Proof.Machine

end

section
/-! PROOFS. The statements about memory (20_memory.md): byte order, which instructions store, that a
stored byte is never fetched, the invariant every step keeps, and the fetch of the instruction whose
bytes stand in memory. -/

namespace Sys2Proof.Machine

/-! ### Byte order -/

/-- Settles O38: a stored word has its bytes in order, reads back, and leaves the rest alone. -/
theorem memoryIsLittleEndian : Obligations.MemoryIsLittleEndian := by
  intro m a v
  have hbyte := fun k (hk : k < 4) => Memory.read_writeWord_inside m a k v hk
  exact ⟨hbyte 0 (by decide), hbyte 1 (by decide), hbyte 2 (by decide), hbyte 3 (by decide),
    Memory.readWord_writeWord m a v, fun b hb => Memory.read_writeWord_outside m a b v hb⟩

/-! ### What an instruction leaves in memory and EFLAGS -/

/-- The word an instruction pushes, if it pushes one (R202, R204). -/
def pushedWord (i : Instr) (s : State) : Option Word :=
  match i with
  | .pushfd => some (pushfdImage s)
  | .pushR32 r => some (s.reg r)
  | _ => none

theorem pushedWord_isSome_iff {i : Instr} {s : State} :
    (pushedWord i s).isSome ↔ i = .pushfd ∨ ∃ r, i = .pushR32 r := by
  cases i <;> simp [pushedWord]

/-- The state with the pushed word, if there is one, stored in the slot below ESP (R75). -/
def State.afterPush (s : State) : Option Word → State
  | some v => s.storeWord (s.esp - 4).toNat v
  | none => s

/-- EFLAGS after an instruction that goes on from `s` (R182, R185, R203, R208 to R210). -/
def eflagsAfter (i : Instr) (s : State) : Word :=
  match i with
  | .syscall => setBit (setBit s.eflags s.cfg.ifBit false) s.cfg.vmBit false
  | .sysret => setBit s.eflags s.cfg.ifBit true
  | .popfd => popfdFlags s (Memory.readWord s.mem s.esp.toNat)
  | .xorEaxImm32 imm => logicFlags (s.eax ^^^ imm) (Config.draw1 s.draws) s.eflags
  | .cmpR32R32 a b => subFlags (s.reg a) (s.reg b) s.eflags
  | .testR32Imm32 r imm => logicFlags (s.reg r &&& imm) (Config.draw1 s.draws) s.eflags
  | _ => s.eflags

/-- Memory, the stored addresses and EFLAGS after an instruction that goes on. -/
theorem exec_next_effect {i : Instr} {s t : State} (h : exec i s = .next t) :
    t.mem = (s.afterPush (pushedWord i s)).mem ∧
      t.written = (s.afterPush (pushedWord i s)).written ∧ t.eflags = eflagsAfter i s := by
  cases i with
  | cpuid =>
    obtain ⟨-, rfl⟩ := execCpuid_next h
    exact ⟨rfl, rfl, rfl⟩
  | syscall =>
    obtain ⟨-, -, -, rfl⟩ := execSyscall_next h
    exact ⟨rfl, rfl, rfl⟩
  | sysret =>
    obtain ⟨-, -, -, -, rfl⟩ := execSysret_next h
    exact ⟨rfl, rfl, rfl⟩
  | pushfd =>
    obtain ⟨-, -, -, -, -, rfl⟩ := execPushfd_next h
    exact ⟨rfl, rfl, rfl⟩
  | popfd =>
    obtain ⟨-, -, -, -, -, rfl⟩ := execPopfd_next h
    exact ⟨rfl, rfl, rfl⟩
  | pushR32 r =>
    obtain ⟨-, -, -, -, -, rfl⟩ := execPushR32_next h
    exact ⟨rfl, rfl, rfl⟩
  | popR32 r =>
    obtain ⟨-, -, -, -, -, rfl⟩ := execPopR32_next h
    simp [eflagsAfter, pushedWord, State.afterPush]
  | movR32R32 a b =>
    obtain ⟨-, -, rfl⟩ := execMovR32R32_next h
    simp [eflagsAfter, pushedWord, State.afterPush]
  | movR32Imm32 r imm =>
    obtain ⟨-, -, rfl⟩ := execMovR32Imm32_next h
    simp [eflagsAfter, pushedWord, State.afterPush]
  | xorEaxImm32 imm =>
    obtain ⟨-, -, rfl⟩ := execXorEaxImm32_next h
    exact ⟨rfl, rfl, rfl⟩
  | cmpR32R32 a b =>
    obtain ⟨-, -, rfl⟩ := execCmpR32R32_next h
    exact ⟨rfl, rfl, rfl⟩
  | testR32Imm32 r imm =>
    obtain ⟨-, -, rfl⟩ := execTestR32Imm32_next h
    exact ⟨rfl, rfl, rfl⟩
  | jzRel8 rel =>
    obtain ⟨-, -, rfl⟩ := execJzRel8_next h
    exact ⟨rfl, rfl, rfl⟩
  | jnzRel8 rel =>
    obtain ⟨-, -, rfl⟩ := execJnzRel8_next h
    exact ⟨rfl, rfl, rfl⟩

/-- An instruction that pushes and goes on had its slot inside the address space (R201 (e)). -/
theorem exec_next_push_room {i : Instr} {s t : State} {v : Word} (h : exec i s = .next t)
    (hv : pushedWord i s = some v) : (s.esp - 4).toNat + 4 ≤ spaceSize := by
  cases i with
  | pushfd =>
    obtain ⟨-, -, -, -, hroom, -⟩ := execPushfd_next h
    exact hroom
  | pushR32 r =>
    obtain ⟨-, -, -, -, hroom, -⟩ := execPushR32_next h
    exact hroom
  | _ => cases hv

/-- An instruction that pushes and goes on has stored the word it pushes in the slot below ESP (R75). -/
theorem exec_next_store {i : Instr} {s t : State} {v : Word} (h : exec i s = .next t)
    (hv : pushedWord i s = some v) : t.mem = Memory.writeWord s.mem (s.esp - 4).toNat v ∧
      t.written = AddrSet.insertWord s.written (s.esp - 4).toNat := by
  obtain ⟨hmem, hwritten, -⟩ := exec_next_effect h
  rw [hv] at hmem hwritten
  exact ⟨hmem, hwritten⟩

/-- An instruction that pushes nothing and goes on leaves memory and the stored addresses as they are
(R64, R75). -/
theorem exec_next_no_store {i : Instr} {s t : State} (h : exec i s = .next t)
    (hv : pushedWord i s = none) : t.mem = s.mem ∧ t.written = s.written := by
  obtain ⟨hmem, hwritten, -⟩ := exec_next_effect h
  rw [hv] at hmem hwritten
  exact ⟨hmem, hwritten⟩

/-- Settles O39: the twelve other instructions store nothing, the two pushes only in their slot. -/
theorem onlyPushesStore : Obligations.OnlyPushesStore := by
  intro i s t h
  refine ⟨fun ⟨hf, hr⟩ => ?_, fun hi b hb => ?_⟩
  · have hnone : pushedWord i s = none := by
      rw [← Option.not_isSome_iff_eq_none, pushedWord_isSome_iff]
      rintro (hi | ⟨r, hi⟩)
      · exact hf hi
      · exact hr r hi
    obtain ⟨hmem, hwritten⟩ := exec_next_no_store h hnone
    exact ⟨fun a => by rw [hmem], hwritten⟩
  · obtain ⟨v, hv⟩ := Option.isSome_iff_exists.1 ((pushedWord_isSome_iff (s := s)).2 hi)
    obtain ⟨hmem, -⟩ := exec_next_store h hv
    rw [hmem, Memory.read_writeWord_outside _ _ _ _ hb]

/-! ### Stored addresses along a run -/

/-- An instruction forgets no stored address (R73). -/
theorem exec_next_keeps_written {i : Instr} {s t : State} {a : Nat} (h : exec i s = .next t)
    (ha : a ∈ s.written) : a ∈ t.written := by
  cases hv : pushedWord i s with
  | none =>
    obtain ⟨-, hwritten⟩ := exec_next_no_store h hv
    rwa [hwritten]
  | some v =>
    obtain ⟨-, hwritten⟩ := exec_next_store h hv
    rw [hwritten]
    exact AddrSet.mem_insertWord.2 (.inr ha)

/-- The address of a byte that an instruction changed is among the stored ones (R73). -/
theorem exec_next_changed_mem_written {i : Instr} {s t : State} {a : Nat} (h : exec i s = .next t)
    (ha : Memory.read t.mem a ≠ Memory.read s.mem a) : a ∈ t.written := by
  cases hv : pushedWord i s with
  | none =>
    obtain ⟨hmem, -⟩ := exec_next_no_store h hv
    exact absurd (by rw [hmem]) ha
  | some v =>
    obtain ⟨hmem, hwritten⟩ := exec_next_store h hv
    rw [hwritten, AddrSet.mem_insertWord]
    by_contra hout
    refine ha ?_
    rw [hmem, Memory.read_writeWord_outside _ _ _ _ (by omega)]

/-- A run of `n + 1` steps that goes on is a step and a run of `n` steps. -/
theorem run_succ_next {M : Host.Core} {n : Nat} {s t : M.State} (h : M.run (n + 1) s = .next t) :
    ∃ u, M.step s = .next u ∧ M.run n u = .next t := by
  unfold Host.Core.run at h
  split at h
  · exact ⟨_, ‹_›, h⟩
  · cases h
  · cases h

/-- What every step keeps holds after every run. -/
theorem run_keeps {M : Host.Core} {P : M.State → Prop}
    (hstep : ∀ s t, M.step s = .next t → P s → P t) :
    ∀ {n : Nat} {s t : M.State}, M.run n s = .next t → P s → P t := by
  intro n
  induction n with
  | zero =>
    intro s t h hs
    cases h
    exact hs
  | succ n ih =>
    intro s t h hs
    obtain ⟨u, hsu, hut⟩ := run_succ_next h
    exact ih hut (hstep s u hsu hs)

theorem step_keeps_written {a : Nat} (s t : State) (h : step s = .next t) (ha : a ∈ s.written) :
    a ∈ t.written := by
  obtain ⟨i, -, hx⟩ := step_next h
  exact exec_next_keeps_written hx ha

/-- Settles O40: the changed byte's address is recorded, stays recorded along the run, and a step that
goes on has fetched no recorded address. -/
theorem changedBytesAreNeverFetched : Obligations.ChangedBytesAreNeverFetched := by
  intro i s t a h hchanged n u v hrun hstep
  have hat : a ∈ t.written := exec_next_changed_mem_written h hchanged
  have hau : a ∈ u.written := run_keeps (M := core) step_keeps_written hrun hat
  obtain ⟨hcode, j, hj, -, hfresh⟩ := stepsKeepTheFetchConditions u v hstep
  refine ⟨j, hj, ?_⟩
  rw [State.fetchAddress_flat hcode.base]
  by_contra hin
  refine hfresh (a - u.eip.toNat) (by omega) ?_
  rwa [Nat.add_sub_cancel' (by omega)]

/-! ### The invariant -/

theorem getLsbD_setBit_ne (e : Word) (i : Fin 32) {j : Nat} (v : Bool) (h : i.val ≠ j) :
    (setBit e i v).getLsbD j = e.getLsbD j := by
  rw [getLsbD_setBit _ _ _ _ i.isLt, if_neg h.symm]

/-- No instruction writes the always-one bit 1, IF and VM being elsewhere (R26). -/
theorem eflagsAfter_bit1 {s : State} (hapart : s.cfg.flagsApart) (i : Instr) :
    (eflagsAfter i s).getLsbD 1 = s.eflags.getLsbD 1 := by
  obtain ⟨hifTaken, hvmTaken, -⟩ := hapart
  have hif : s.cfg.ifBit.val ≠ 1 := fun h => hifTaken (by simp [h])
  have hvm : s.cfg.vmBit.val ≠ 1 := fun h => hvmTaken (by simp [h])
  cases i with
  | syscall => exact (getLsbD_setBit_ne _ _ _ hvm).trans (getLsbD_setBit_ne _ _ _ hif)
  | sysret => exact getLsbD_setBit_ne _ _ _ hif
  | popfd => exact popfdFlags_bit1 s _ hif
  | xorEaxImm32 imm => exact getLsbD_logicFlags ..
  | cmpR32R32 a b => exact getLsbD_subFlags ..
  | testR32Imm32 r imm => exact getLsbD_logicFlags ..
  | _ => rfl

/-- Memory and the stored addresses stay in canonical form (R60). -/
theorem exec_next_keeps_wf {i : Instr} {s t : State} (h : exec i s = .next t)
    (hm : Memory.wf s.mem) (hw : AddrSet.wf s.written) : Memory.wf t.mem ∧ AddrSet.wf t.written := by
  cases hv : pushedWord i s with
  | none =>
    obtain ⟨hmem, hwritten⟩ := exec_next_no_store h hv
    rw [hmem, hwritten]
    exact ⟨hm, hw⟩
  | some v =>
    obtain ⟨hmem, hwritten⟩ := exec_next_store h hv
    have hroom := exec_next_push_room h hv
    rw [hmem, hwritten]
    exact ⟨Memory.wf_writeWord v hm hroom, AddrSet.wf_insertWord hw hroom⟩

/-- CPL stays as it is, or becomes 0 by SYSCALL or 3 by SYSRET (R182, R185). -/
theorem exec_next_cpl {i : Instr} {s t : State} (h : exec i s = .next t) :
    t.cpl = s.cpl ∨ (i = .syscall ∧ t.cpl = 0) ∨ (i = .sysret ∧ t.cpl = 3) := by
  by_cases hc : i = .syscall
  · subst hc
    obtain ⟨-, -, -, rfl⟩ := execSyscall_next h
    exact .inr (.inl ⟨rfl, rfl⟩)
  by_cases hr : i = .sysret
  · subst hr
    obtain ⟨-, -, -, -, rfl⟩ := execSysret_next h
    exact .inr (.inr ⟨rfl, rfl⟩)
  exact .inl (exec_next_sameSystem h hc hr).cpl

theorem exec_next_keeps_inv {i : Instr} {s t : State} (hs : s.Inv) (h : exec i s = .next t) :
    t.Inv := by
  obtain ⟨-, -, hcfg⟩ := exec_next_msrs_cfg h
  obtain ⟨-, -, heflags⟩ := exec_next_effect h
  obtain ⟨hmem, hstored⟩ := exec_next_keeps_wf h hs.memory hs.stored
  refine ⟨hcfg ▸ hs.flagsApart, hmem, hstored, ?_, ?_⟩
  · rw [heflags, eflagsAfter_bit1 hs.flagsApart, hs.alwaysOne]
  · obtain hcpl | ⟨-, hcpl⟩ | ⟨-, hcpl⟩ := exec_next_cpl h
    · exact hcpl ▸ hs.privilege
    · exact .inl hcpl
    · exact .inr hcpl

/-- Settles O53: the step is the execution of an instruction, and that keeps every part. -/
theorem stepKeepsTheInvariant : Obligations.StepKeepsTheInvariant := by
  intro s t hs h
  obtain ⟨i, -, hx⟩ := step_next h
  exact exec_next_keeps_inv hs hx

/-! ### The instruction in memory -/

/-- Settles O45: the three conditions are those of the fetch. -/
theorem stepExecutesTheDecodedInstruction : Obligations.StepExecutesTheDecodedInstruction := by
  intro s i rest hcode hdecode hfresh
  refine step_of (fetch_of (codeFlat_iff.1 hcode) hdecode ?_)
  rw [State.fetchAddress_flat hcode.base, State.storedIn_eq_false_iff]
  exact hfresh

/-- The bytes of memory from an address on begin with those that stand there. -/
theorem Memory.bytes_eq_append {m : Memory} {code : List Byte} : ∀ {a n : Nat}, code.length ≤ n →
    a + code.length ≤ spaceSize →
    (∀ k, (h : k < code.length) → Memory.read m (a + k) = code[k]) →
    ∃ rest, Memory.bytes m a n = code ++ rest := by
  induction code with
  | nil => exact fun _ _ _ => ⟨_, rfl⟩
  | cons b code ih =>
    intro a n hn ha hread
    obtain _ | n := n
    · cases hn
    rw [List.length_cons] at hn ha
    have hb : Memory.read m a = b := hread 0 (by simp)
    obtain ⟨rest, hrest⟩ := ih (a := a + 1) (n := n) (by omega) (by omega) fun k hk => by
      have := hread (k + 1) (by simpa using hk)
      rwa [← Nat.add_assoc, Nat.add_right_comm] at this
    exact ⟨rest, by rw [Memory.bytes, if_pos (by omega), hb, hrest, List.cons_append]⟩

end Sys2Proof.Machine
end

section
/-! PROOFS. Decoding either encoding of an instruction, whatever follows it, and with it the step at an
instruction in memory. -/

namespace Sys2Proof

/-- Bytes that select a row of their length decode to its instruction, whatever follows them (R87). -/
theorem decode_of_row {code rest : List Byte} {row : OpRow} {i : Instr}
    (hrow : opcodeRow (code ++ rest) = some row) (hlen : code.length = row.length)
    (hi : row.form.instr (code ++ rest) = i) : decode (code ++ rest) = .ok (i, rest) := by
  simp [decode, hrow, ← hlen, hi]

/-- Where no row goes on with a second byte, the first byte alone selects the row. -/
theorem opcodeRow_first {b : Byte} (h : b ∉ twoByteStarts) (rest : List Byte) :
    opcodeRow (b :: rest) = opcodeRow [b] := by
  cases rest with
  | nil => rfl
  | cons c rest =>
    simp only [twoByteStarts, List.mem_cons, List.not_mem_nil, or_false, not_or] at h
    rw [opcodeRow_pair, opcodeRow_single]
    simp only [h, false_and, if_false]

/-- No more than two bytes select the row. -/
theorem opcodeRow_first_two (b c : Byte) (rest : List Byte) :
    opcodeRow (b :: c :: rest) = opcodeRow [b, c] := by
  rw [opcodeRow_pair, opcodeRow_pair]

/-- The three rows of the first byte 0F (R83). -/
theorem opcodeRow_0F : opcodeRow [0x0F, 0xA2] = some ⟨0x0FA2, 0xFFFF, 2, 2, .cpuid⟩ ∧
    opcodeRow [0x0F, 0x05] = some ⟨0x0F05, 0xFFFF, 2, 2, .syscall⟩ ∧
    opcodeRow [0x0F, 0x07] = some ⟨0x0F07, 0xFFFF, 2, 2, .sysret⟩ := by decide

/-- A ModRM byte with mod = 11b selects the row of its opcode, either encoding of MOV and CMP. -/
theorem opcodeRow_modRm : ∀ reg rm : BitVec 3,
    opcodeRow [0x8B, modRm reg rm] = some ⟨0x8BC0, 0xFFC0, 2, 2, .movRegRm⟩ ∧
    opcodeRow [0x89, modRm reg rm] = some ⟨0x89C0, 0xFFC0, 2, 2, .movRmReg⟩ ∧
    opcodeRow [0x3B, modRm reg rm] = some ⟨0x3BC0, 0xFFC0, 2, 2, .cmpRegRm⟩ ∧
    opcodeRow [0x39, modRm reg rm] = some ⟨0x39C0, 0xFFC0, 2, 2, .cmpRmReg⟩ := by decide

theorem opcodeRow_modRm_zero : ∀ rm : BitVec 3,
    opcodeRow [0xF7, modRm 0 rm] = some ⟨0xF7C0, 0xFFF8, 2, 6, .testImm⟩ := by decide

/-- The rows whose opcode byte holds a register in its low bits. -/
theorem opcodeRow_register : ∀ n : BitVec 3,
    opcodeRow [0x50 + n.zeroExtend 8] = some ⟨0x50, 0xF8, 1, 1, .pushR32⟩ ∧
    opcodeRow [0x58 + n.zeroExtend 8] = some ⟨0x58, 0xF8, 1, 1, .popR32⟩ ∧
    opcodeRow [0xB8 + n.zeroExtend 8] = some ⟨0xB8, 0xF8, 1, 5, .movImm⟩ := by decide

theorem register_opcode_notMem_twoByteStarts : ∀ n : BitVec 3,
    0x50 + n.zeroExtend 8 ∉ twoByteStarts ∧ 0x58 + n.zeroExtend 8 ∉ twoByteStarts ∧
    0xB8 + n.zeroExtend 8 ∉ twoByteStarts := by decide

/-- Decoding the encoding of an instruction gives it back and leaves the bytes after it (R83, R200). -/
theorem decode_encode (i : Instr) (rest : List Byte) : decode (encode i ++ rest) = .ok (i, rest) := by
  cases i with
  | cpuid =>
    obtain ⟨hrow, -, -⟩ := opcodeRow_0F
    exact decode_of_row ((opcodeRow_first_two ..).trans hrow) rfl rfl
  | syscall =>
    obtain ⟨-, hrow, -⟩ := opcodeRow_0F
    exact decode_of_row ((opcodeRow_first_two ..).trans hrow) rfl rfl
  | sysret =>
    obtain ⟨-, -, hrow⟩ := opcodeRow_0F
    exact decode_of_row ((opcodeRow_first_two ..).trans hrow) rfl rfl
  | pushfd => exact decode_of_row ((opcodeRow_first (by decide) _).trans rfl) rfl rfl
  | popfd => exact decode_of_row ((opcodeRow_first (by decide) _).trans rfl) rfl rfl
  | pushR32 r =>
    obtain ⟨hrow, -, -⟩ := opcodeRow_register r.number
    obtain ⟨hfirst, -, -⟩ := register_opcode_notMem_twoByteStarts r.number
    obtain ⟨hlow, -, -⟩ := lowField_opcode r
    refine decode_of_row ((opcodeRow_first hfirst _).trans hrow) rfl ?_
    rw [encode, OpForm.instr, List.singleton_append, byteAt_zero, hlow, Reg.ofNumber_number]
  | popR32 r =>
    obtain ⟨-, hrow, -⟩ := opcodeRow_register r.number
    obtain ⟨-, hfirst, -⟩ := register_opcode_notMem_twoByteStarts r.number
    obtain ⟨-, hlow, -⟩ := lowField_opcode r
    refine decode_of_row ((opcodeRow_first hfirst _).trans hrow) rfl ?_
    rw [encode, OpForm.instr, List.singleton_append, byteAt_zero, hlow, Reg.ofNumber_number]
  | movR32R32 a b =>
    obtain ⟨hrow, -, -, -⟩ := opcodeRow_modRm a.number b.number
    refine decode_of_row ((opcodeRow_first_two ..).trans hrow) rfl ?_
    simp [encode, OpForm.instr, modRm_fields]
  | movR32Imm32 r imm =>
    obtain ⟨-, -, hrow⟩ := opcodeRow_register r.number
    obtain ⟨-, -, hfirst⟩ := register_opcode_notMem_twoByteStarts r.number
    obtain ⟨-, -, hlow⟩ := lowField_opcode r
    refine decode_of_row ((opcodeRow_first hfirst _).trans hrow) rfl ?_
    rw [encode, OpForm.instr, imm32At_imm32Bytes, List.cons_append, byteAt_zero, hlow,
      Reg.ofNumber_number]
  | xorEaxImm32 imm =>
    refine decode_of_row ((opcodeRow_first (by decide) _).trans rfl) rfl ?_
    rw [encode, OpForm.instr, imm32At_imm32Bytes]
  | cmpR32R32 a b =>
    obtain ⟨-, -, hrow, -⟩ := opcodeRow_modRm a.number b.number
    refine decode_of_row ((opcodeRow_first_two ..).trans hrow) rfl ?_
    simp [encode, OpForm.instr, modRm_fields]
  | testR32Imm32 r imm =>
    refine decode_of_row ((opcodeRow_first_two ..).trans (opcodeRow_modRm_zero r.number)) rfl ?_
    rw [encode, OpForm.instr, imm32At_imm32Bytes_two]
    simp [modRm_fields]
  | jzRel8 rel => exact decode_of_row ((opcodeRow_first (by decide) _).trans rfl) rfl rfl
  | jnzRel8 rel => exact decode_of_row ((opcodeRow_first (by decide) _).trans rfl) rfl rfl

/-- The same of the second encoding of MOV and CMP (R206, R209). -/
theorem decode_encodeAlternative (i : Instr) (rest : List Byte) :
    decode (encodeAlternative i ++ rest) = .ok (i, rest) := by
  cases i with
  | movR32R32 a b =>
    obtain ⟨-, hrow, -, -⟩ := opcodeRow_modRm b.number a.number
    refine decode_of_row ((opcodeRow_first_two ..).trans hrow) rfl ?_
    simp [encodeAlternative, OpForm.instr, modRm_fields]
  | cmpR32R32 a b =>
    obtain ⟨-, -, -, hrow⟩ := opcodeRow_modRm b.number a.number
    refine decode_of_row ((opcodeRow_first_two ..).trans hrow) rfl ?_
    simp [encodeAlternative, OpForm.instr, modRm_fields]
  | _ => simp only [encodeAlternative, decode_encode]

/-- The lengths of both encodings, for every instruction. -/
theorem encodeLength (i : Instr) : Laws.EncodeLength.Statement i := by
  cases i with
  | cpuid => exact Laws.EncodeLength.cpuid
  | syscall => exact Laws.EncodeLength.syscall
  | sysret => exact Laws.EncodeLength.sysret
  | pushfd => exact Laws.EncodeLength.pushfd
  | popfd => exact Laws.EncodeLength.popfd
  | pushR32 r => exact Laws.EncodeLength.pushR32 r
  | popR32 r => exact Laws.EncodeLength.popR32 r
  | movR32R32 a b => exact Laws.EncodeLength.movR32R32 a b
  | movR32Imm32 r imm => exact Laws.EncodeLength.movR32Imm32 r imm
  | xorEaxImm32 imm => exact Laws.EncodeLength.xorEaxImm32 imm
  | cmpR32R32 a b => exact Laws.EncodeLength.cmpR32R32 a b
  | testR32Imm32 r imm => exact Laws.EncodeLength.testR32Imm32 r imm
  | jzRel8 rel => exact Laws.EncodeLength.jzRel8 rel
  | jnzRel8 rel => exact Laws.EncodeLength.jnzRel8 rel

namespace Machine

/-- Bytes that decode to an instruction whatever follows them, standing at EIP below 2^32: the step is
its execution. -/
theorem step_of_codeAt {code : List Byte} {i : Instr} {s : State} (hcode : CodeAt code s)
    (hdecode : ∀ rest, decode (code ++ rest) = .ok (i, rest)) (hlen : code.length = i.length)
    (hplaced : Placed i.length s) : step s = exec i s := by
  obtain ⟨-, -, -, hmax⟩ := encodeLength i
  have hroom : s.fetchAddress + code.length ≤ spaceSize := by
    rw [State.fetchAddress_flat hcode.flat.base, hlen]
    exact hplaced.le
  obtain ⟨rest, hrest⟩ := Memory.bytes_eq_append (hlen ▸ hmax) hroom
    (by rw [State.fetchAddress_flat hcode.flat.base]; exact hcode.bytes)
  refine stepExecutesTheDecodedInstruction s i rest hcode.flat ?_ (hlen ▸ hcode.unwritten)
  rw [State.fetchBytes, hrest, hdecode]

/-- Settles O46: either encoding decodes to the instruction and has its length. -/
theorem stepExecutesTheInstructionInMemory : Obligations.StepExecutesTheInstructionInMemory := by
  intro s i hwf hcode
  have hplaced : s.eip.toNat + i.length < spaceSize := of_decide_eq_true hwf
  obtain ⟨hlen, hlenAlt, -, -⟩ := encodeLength i
  obtain hcode | hcode := hcode
  · exact step_of_codeAt hcode (decode_encode i) hlen hplaced
  · exact step_of_codeAt hcode (decode_encodeAlternative i) hlenAlt hplaced

end Machine

end Sys2Proof
end

section
/-! PROOFS. The statements about the encoding (30_encoding.md): the round trips between decoder and
encoder, a word of every row, and the refusal of the bytes of no row. -/

namespace Sys2Proof

/-! ### Both round trips -/

/-- Settles O41: the round trip that the fetch rests on. -/
theorem decodeOfEncode : Obligations.DecodeOfEncode := decode_encode

/-- What decodes begins, whole, with a row of the table (R87). -/
theorem decode_ok_row {bytes : List Byte} {r : Instr × List Byte} (h : decode bytes = .ok r) :
    ∃ row ∈ opcodeTable, row.fits bytes = true ∧ row.length ≤ bytes.length := by
  unfold decode at h
  split at h
  · cases h
  · next row hrow =>
    split at h
    · cases h
    · exact ⟨row, List.mem_of_find?_eq_some hrow,
        List.find?_some (p := fun row : OpRow => row.fits bytes) hrow, by omega⟩

/-- Bytes that fit a row of one byte have that byte, its fixed bits the row's. -/
theorem exists_byte_of_fits (p m : Byte) {P M n : Nat} {f : OpForm} {bytes : List Byte}
    (h : (OpRow.mk P M 1 n f).fits bytes = true) (hP : p.toNat = P) (hM : m.toNat = M) :
    ∃ b l, bytes = b :: l ∧ b &&& m = p := by
  match bytes with
  | [] => cases h
  | b :: l =>
    rw [fits_byte P M p m hP hM] at h
    exact ⟨b, l, rfl, of_decide_eq_true h⟩

/-- Bytes that fit a row of two bytes have both, their fixed bits the row's. -/
theorem exists_pair_of_fits (p q m n : Byte) {P M k : Nat} {f : OpForm} {bytes : List Byte}
    (h : (OpRow.mk P M 2 k f).fits bytes = true) (hP : p.toNat * 256 + q.toNat = P)
    (hM : m.toNat * 256 + n.toNat = M) :
    ∃ b c l, bytes = b :: c :: l ∧ b &&& m = p ∧ c &&& n = q := by
  match bytes with
  | [] => cases h
  | [_] => cases h
  | b :: c :: l =>
    rw [fits_pair P M p q m n hP hM] at h
    exact ⟨b, c, l, rfl, of_decide_eq_true h⟩

/-- The mask FF leaves a byte as it is. -/
theorem eq_of_whole_mask {b p : Byte} (h : b &&& 0xFF = p) : b = p :=
  (masked_byte b).1 ▸ h

/-- A byte is put together again from the high bits that a row fixes and its register field. -/
theorem byte_of_lowField : ∀ b : Byte,
    (b &&& 0xF8 = 0x50 → b = 0x50 + (lowField b).zeroExtend 8) ∧
    (b &&& 0xF8 = 0x58 → b = 0x58 + (lowField b).zeroExtend 8) ∧
    (b &&& 0xF8 = 0xB8 → b = 0xB8 + (lowField b).zeroExtend 8) ∧
    (b &&& 0xF8 = 0xC0 → b = modRm 0 (lowField b)) := by decide

/-- A byte with the fixed bits of PUSH, POP, MOV or of TEST's ModRM byte holds some register (R201
(b)). -/
theorem exists_register (b : Byte) :
    (b &&& 0xF8 = 0x50 → ∃ r : Reg, b = 0x50 + r.number.zeroExtend 8) ∧
    (b &&& 0xF8 = 0x58 → ∃ r : Reg, b = 0x58 + r.number.zeroExtend 8) ∧
    (b &&& 0xF8 = 0xB8 → ∃ r : Reg, b = 0xB8 + r.number.zeroExtend 8) ∧
    (b &&& 0xF8 = 0xC0 → ∃ r : Reg, b = modRm 0 r.number) := by
  have hbyte := byte_of_lowField b
  rw [← Reg.number_ofNumber (lowField b)] at hbyte
  obtain ⟨hpush, hpop, hmov, htest⟩ := hbyte
  exact ⟨fun h => ⟨_, hpush h⟩, fun h => ⟨_, hpop h⟩, fun h => ⟨_, hmov h⟩, fun h => ⟨_, htest h⟩⟩

/-- A byte with mod = 11b is the ModRM byte of two registers (R201 (c)). -/
theorem exists_modRm {c : Byte} (h : c &&& 0xC0 = 0xC0) :
    ∃ reg rm : Reg, c = modRm reg.number rm.number := by
  obtain ⟨-, -, -, -, -, hmod⟩ := masked_byte c
  refine ⟨Reg.ofNumber (regField c), Reg.ofNumber (lowField c), ?_⟩
  rw [Reg.number_ofNumber, Reg.number_ofNumber, modRm_of_fields c (hmod ▸ h)]

/-- Four bytes or more begin with an immediate (R201 (d)). -/
theorem exists_imm32Bytes {l : List Byte} (h : 4 ≤ l.length) :
    ∃ imm rest, l = imm32Bytes imm ++ rest := by
  match l with
  | b0 :: b1 :: b2 :: b3 :: rest =>
    exact ⟨wordOfBytes b0 b1 b2 b3, rest, by rw [imm32Bytes_wordOfBytes]; rfl⟩

/-- Bytes that begin, whole, with a row of the table begin with one of the encodings of an instruction:
the row fixes every bit that is no operand's. -/
theorem exists_encoding_of_fits {row : OpRow} {bytes : List Byte} (hrow : row ∈ opcodeTable)
    (hfits : row.fits bytes = true) (hlen : row.length ≤ bytes.length) :
    ∃ i rest, bytes = encode i ++ rest ∨ bytes = encodeAlternative i ++ rest := by
  simp only [opcodeTable, List.mem_cons, List.not_mem_nil, or_false] at hrow
  obtain rfl | rfl | rfl | rfl | rfl | rfl | rfl | rfl | rfl | rfl | rfl | rfl | rfl | rfl | rfl | rfl :=
    hrow
  · obtain ⟨b, c, l, rfl, hb, hc⟩ := exists_pair_of_fits 0x0F 0xA2 0xFF 0xFF hfits rfl rfl
    obtain rfl := eq_of_whole_mask hb
    obtain rfl := eq_of_whole_mask hc
    exact ⟨.cpuid, l, .inl rfl⟩
  · obtain ⟨b, c, l, rfl, hb, hc⟩ := exists_pair_of_fits 0x0F 0x05 0xFF 0xFF hfits rfl rfl
    obtain rfl := eq_of_whole_mask hb
    obtain rfl := eq_of_whole_mask hc
    exact ⟨.syscall, l, .inl rfl⟩
  · obtain ⟨b, c, l, rfl, hb, hc⟩ := exists_pair_of_fits 0x0F 0x07 0xFF 0xFF hfits rfl rfl
    obtain rfl := eq_of_whole_mask hb
    obtain rfl := eq_of_whole_mask hc
    exact ⟨.sysret, l, .inl rfl⟩
  · obtain ⟨b, l, rfl, hb⟩ := exists_byte_of_fits 0x9C 0xFF hfits rfl rfl
    obtain rfl := eq_of_whole_mask hb
    exact ⟨.pushfd, l, .inl rfl⟩
  · obtain ⟨b, l, rfl, hb⟩ := exists_byte_of_fits 0x9D 0xFF hfits rfl rfl
    obtain rfl := eq_of_whole_mask hb
    exact ⟨.popfd, l, .inl rfl⟩
  · obtain ⟨b, l, rfl, hb⟩ := exists_byte_of_fits 0x50 0xF8 hfits rfl rfl
    obtain ⟨hreg, -, -, -⟩ := exists_register b
    obtain ⟨r, rfl⟩ := hreg hb
    exact ⟨.pushR32 r, l, .inl rfl⟩
  · obtain ⟨b, l, rfl, hb⟩ := exists_byte_of_fits 0x58 0xF8 hfits rfl rfl
    obtain ⟨-, hreg, -, -⟩ := exists_register b
    obtain ⟨r, rfl⟩ := hreg hb
    exact ⟨.popR32 r, l, .inl rfl⟩
  · obtain ⟨b, c, l, rfl, hb, hc⟩ := exists_pair_of_fits 0x8B 0xC0 0xFF 0xC0 hfits rfl rfl
    obtain rfl := eq_of_whole_mask hb
    obtain ⟨reg, rm, rfl⟩ := exists_modRm hc
    exact ⟨.movR32R32 reg rm, l, .inl rfl⟩
  · obtain ⟨b, c, l, rfl, hb, hc⟩ := exists_pair_of_fits 0x89 0xC0 0xFF 0xC0 hfits rfl rfl
    obtain rfl := eq_of_whole_mask hb
    obtain ⟨reg, rm, rfl⟩ := exists_modRm hc
    exact ⟨.movR32R32 rm reg, l, .inr rfl⟩
  · obtain ⟨b, l, rfl, hb⟩ := exists_byte_of_fits 0xB8 0xF8 hfits rfl rfl
    obtain ⟨-, -, hreg, -⟩ := exists_register b
    obtain ⟨r, rfl⟩ := hreg hb
    obtain ⟨imm, rest, rfl⟩ := exists_imm32Bytes (Nat.le_of_succ_le_succ hlen)
    exact ⟨.movR32Imm32 r imm, rest, .inl rfl⟩
  · obtain ⟨b, l, rfl, hb⟩ := exists_byte_of_fits 0x35 0xFF hfits rfl rfl
    obtain rfl := eq_of_whole_mask hb
    obtain ⟨imm, rest, rfl⟩ := exists_imm32Bytes (Nat.le_of_succ_le_succ hlen)
    exact ⟨.xorEaxImm32 imm, rest, .inl rfl⟩
  · obtain ⟨b, c, l, rfl, hb, hc⟩ := exists_pair_of_fits 0x3B 0xC0 0xFF 0xC0 hfits rfl rfl
    obtain rfl := eq_of_whole_mask hb
    obtain ⟨reg, rm, rfl⟩ := exists_modRm hc
    exact ⟨.cmpR32R32 reg rm, l, .inl rfl⟩
  · obtain ⟨b, c, l, rfl, hb, hc⟩ := exists_pair_of_fits 0x39 0xC0 0xFF 0xC0 hfits rfl rfl
    obtain rfl := eq_of_whole_mask hb
    obtain ⟨reg, rm, rfl⟩ := exists_modRm hc
    exact ⟨.cmpR32R32 rm reg, l, .inr rfl⟩
  · obtain ⟨b, c, l, rfl, hb, hc⟩ := exists_pair_of_fits 0xF7 0xC0 0xFF 0xF8 hfits rfl rfl
    obtain rfl := eq_of_whole_mask hb
    obtain ⟨-, -, -, hreg⟩ := exists_register c
    obtain ⟨r, rfl⟩ := hreg hc
    obtain ⟨imm, rest, rfl⟩ := exists_imm32Bytes
      (Nat.le_of_succ_le_succ (Nat.le_of_succ_le_succ hlen))
    exact ⟨.testR32Imm32 r imm, rest, .inl rfl⟩
  · obtain ⟨b, l, rfl, hb⟩ := exists_byte_of_fits 0x74 0xFF hfits rfl rfl
    obtain rfl := eq_of_whole_mask hb
    obtain ⟨rel, rest, rfl⟩ := List.exists_cons_of_length_pos (Nat.lt_of_succ_lt_succ hlen)
    exact ⟨.jzRel8 rel, rest, .inl rfl⟩
  · obtain ⟨b, l, rfl, hb⟩ := exists_byte_of_fits 0x75 0xFF hfits rfl rfl
    obtain rfl := eq_of_whole_mask hb
    obtain ⟨rel, rest, rfl⟩ := List.exists_cons_of_length_pos (Nat.lt_of_succ_lt_succ hlen)
    exact ⟨.jnzRel8 rel, rest, .inl rfl⟩

/-- Settles O42: what decodes begins with an encoding of some instruction, and that decodes to nothing
else. -/
theorem decodeAcceptsOnlyTheTable : Obligations.DecodeAcceptsOnlyTheTable := by
  intro bytes rest i h
  obtain ⟨row, hrow, hfits, hlen⟩ := decode_ok_row h
  obtain ⟨j, l, rfl | rfl⟩ := exists_encoding_of_fits hrow hfits hlen
  · rw [decode_encode] at h
    cases h
    exact .inl rfl
  · rw [decode_encodeAlternative] at h
    cases h
    exact .inr rfl

/-! ### A word of every row -/

/-- Settles O43: each word is the encoding of its instruction. -/
theorem sampleWordsDecode : Obligations.SampleWordsDecode :=
  ⟨decode_encode .cpuid [], decode_encode .syscall [], decode_encode .sysret [],
    decode_encode .pushfd [], decode_encode .popfd [], decode_encode (.pushR32 .eax) [],
    decode_encode (.popR32 .eax) [], decode_encode (.movR32R32 .ebx .eax) [],
    decode_encode (.movR32Imm32 .eax 0x80000001) [], decode_encode (.xorEaxImm32 0x00200000) [],
    decode_encode (.cmpR32R32 .eax .ebx) [], decode_encode (.testR32Imm32 .edx 0x00000800) [],
    decode_encode (.jzRel8 0x10) [], decode_encode (.jnzRel8 0x05) []⟩

/-! ### Bytes of no row -/

/-- A sequence that selects no row is rejected by name (R84, R85, R87). -/
theorem decode_of_noRow {bytes : List Byte} (h : opcodeRow bytes = none) :
    decode bytes = .error (rejection bytes) := by
  simp [decode, h]

/-- No sequence that has a first byte is named truncated, but a lone first byte of two-byte rows (R87). -/
theorem rejection_ne_truncated {b : Byte} {rest : List Byte} (h : b ∈ twoByteStarts → rest ≠ []) :
    rejection (b :: rest) ≠ .truncated := by
  cases rest with
  | nil =>
    have hfirst : twoByteStarts.contains b = false := by simpa using h
    simp only [rejection, hfirst]
    split <;> simp
  | cons c rest =>
    simp only [rejection]
    split
    · simp
    · split <;> simp

/-- A first byte of no row selects none, whatever follows it (R85 to R87). -/
theorem opcodeRow_unknownFirst {b : Byte}
    (h : b ∉ ([0x0F, 0x9C, 0x9D, 0x35, 0x74, 0x75, 0x8B, 0x89, 0x3B, 0x39, 0xF7] : List Byte))
    (hpush : b.extractLsb' 3 5 ≠ 0x0A) (hpop : b.extractLsb' 3 5 ≠ 0x0B)
    (hmov : b.extractLsb' 3 5 ≠ 0x17) : b ∉ twoByteStarts ∧ ∀ rest, opcodeRow (b :: rest) = none := by
  simp only [List.mem_cons, List.not_mem_nil, or_false, not_or] at h
  have hfirst : b ∉ twoByteStarts := by
    simp only [twoByteStarts, List.mem_cons, List.not_mem_nil, or_false, h, not_false_eq_true]
  refine ⟨hfirst, fun rest => ?_⟩
  rw [opcodeRow_first hfirst, opcodeRow_single]
  simp only [h, hpush, hpop, hmov, if_false]

/-- 0F with another second byte selects no row. -/
theorem opcodeRow_0F_unknownSecond {c : Byte} (h : c ∉ ([0xA2, 0x05, 0x07] : List Byte))
    (rest : List Byte) : opcodeRow (0x0F :: c :: rest) = none := by
  obtain ⟨hcpuid, hsyscall, hsysret⟩ : c ≠ 0xA2#8 ∧ c ≠ 0x05#8 ∧ c ≠ 0x07#8 := by simpa using h
  simp [opcodeRow_pair, hcpuid, hsyscall, hsysret]

/-- MOV or CMP between registers with mod other than 11b selects no row (R206, R209). -/
theorem opcodeRow_mod_ne {b c : Byte} (hb : b ∈ ([0x8B, 0x89, 0x3B, 0x39] : List Byte))
    (hc : c.extractLsb' 6 2 ≠ 3#2) (rest : List Byte) : opcodeRow (b :: c :: rest) = none := by
  simp only [List.mem_cons, List.not_mem_nil, or_false] at hb
  obtain rfl | rfl | rfl | rfl := hb <;> simp [opcodeRow_pair, hc]

/-- F7 with mod other than 11b or another opcode extension than 000b selects no row (R210). -/
theorem opcodeRow_F7_unknownSecond {c : Byte} (h : c.extractLsb' 3 5 ≠ 0x18#5) (rest : List Byte) :
    opcodeRow (0xF7 :: c :: rest) = none := by
  simp [opcodeRow_pair, h]

namespace Machine

/-- Every rejection but that of a sequence cut short refuses under its own name. -/
theorem decodeRefusal_of_ne_truncated {e : DecodeError} (h : e ≠ .truncated) :
    decodeRefusal e = .encoding e := by
  cases e with
  | truncated => exact absurd rfl h
  | _ => rfl

/-- Bytes at EIP that select no row, whatever follows them, and that are no sequence cut short: the step
is an encoding refusal. -/
theorem step_refused_of_noRow {s : State} {code : List Byte} (hflat : CodeFlat s)
    (hroom : s.eip.toNat + code.length ≤ spaceSize)
    (hread : ∀ k, (h : k < code.length) → Memory.read s.mem (s.eip.toNat + k) = code[k])
    (hmax : code.length ≤ Instr.maxLength) (hnone : ∀ rest, opcodeRow (code ++ rest) = none)
    (hwhole : ∀ rest, rejection (code ++ rest) ≠ .truncated) :
    ∃ e, step s = .refused (.encoding e) := by
  obtain ⟨rest, hrest⟩ := Memory.bytes_eq_append hmax hroom hread
  have hdecode : decode s.fetchBytes = .error (rejection (code ++ rest)) := by
    rw [State.fetchBytes, State.fetchAddress_flat hflat.base, hrest, decode_of_noRow (hnone rest)]
  refine ⟨rejection (code ++ rest), ?_⟩
  simp [step, fetch, codeFlat_iff.1 hflat, hdecode, decodeRefusal_of_ne_truncated (hwhole rest)]

/-- Settles O44: the first byte alone, or the first two, select no row. -/
theorem otherBytesAreRefused : Obligations.OtherBytesAreRefused := by
  intro s hflat b0 b1 h0
  refine ⟨fun hother hpush hpop hmov => ?_, fun hroom h1 => ?_⟩
  · obtain ⟨hfirst, hnone⟩ := opcodeRow_unknownFirst hother hpush hpop hmov
    exact step_refused_of_noRow (code := [b0]) hflat s.eip.isLt (by simpa using h0)
      (by simp [Instr.maxLength]) hnone fun _ => rejection_ne_truncated (absurd · hfirst)
  · have hpair : (∀ rest, opcodeRow (b0 :: b1 :: rest) = none) →
        ∃ e, step s = .refused (.encoding e) := fun hnone =>
      step_refused_of_noRow (code := [b0, b1]) hflat hroom
        (fun k hk => match k, hk with | 0, _ => h0 | 1, _ => h1) (by simp [Instr.maxLength]) hnone
        fun _ => rejection_ne_truncated fun _ => List.cons_ne_nil _ _
    refine ⟨?_, fun hb hc => hpair (opcodeRow_mod_ne hb hc), ?_⟩
    · rintro rfl hc
      exact hpair (opcodeRow_0F_unknownSecond hc)
    · rintro rfl hc
      exact hpair (opcodeRow_F7_unknownSecond hc)

end Machine

end Sys2Proof
end

section
/-! PROOFS. The statements about CPUID itself (40_cpuid.md): its encoding, its effect and frame, the
vendor string, the functions no source defines, and what the results depend on. -/

namespace Sys2Proof

/-! ### Rows of the dispatch on the function number (R103) -/

@[simp] theorem Config.cpuidFn_zero (c : Config) (d : Quad) :
    c.cpuidFn 0 d = vendorQuad c.largestStd := if_pos rfl

theorem Config.largestStd_of_ne {c : Config} (h : c.proc ≠ .k6p_3dM9) : c.largestStd = 1 := if_neg h

/-- The words of function 0 spell the vendor string, whatever its EAX (R104, R150). -/
theorem vendorChars_vendorQuad (w : Word) : vendorChars (vendorQuad w) =
    Machine.asciiBytes ['A', 'u', 't', 'h', 'e', 'n', 't', 'i', 'c', 'A', 'M', 'D'] := by
  simp only [vendorChars, vendorQuad]
  decide

/-- Outside 8000_0001h to 8000_0005h no extended function is defined (R119). -/
theorem Config.extendedFn_undefined (c : Config) (x : ExtData) {f : Word} (d : Quad)
    (h : ¬ (0x80000001 ≤ f ∧ f ≤ 0x80000005)) : c.extendedFn x f d = d := by
  have hne : ∀ k : Word, 0x80000001 ≤ k ∧ k ≤ 0x80000005 → f ≠ k := fun _ hk hf => h (hf ▸ hk)
  rw [Config.extendedFn, if_neg (hne _ (by decide)), if_neg (hne _ (by decide)),
    if_neg (hne _ (by decide)), if_neg (hne _ (by decide)), if_neg (hne _ (by decide))]

/-- A function number that no source defines for the processor gives the draws (R118, R119). -/
theorem Config.cpuidFn_undefined {c : Config} {f : Word} (d : Quad) (h0 : f ≠ 0) (h1 : f ≠ 1)
    (hbase : f ≠ 0x80000000) (hext : c.hasExt = true → ¬ (0x80000001 ≤ f ∧ f ≤ 0x80000005)) :
    c.cpuidFn f d = d := by
  rw [Config.cpuidFn, if_neg h0, if_neg h1, if_neg hbase]
  cases hx : c.extData with
  | none => rfl
  | some x => exact c.extendedFn_undefined x d (hext (by simp [Config.hasExt, hx]))

namespace Machine

/-! ### The four registers after CPUID -/

/-- CPUID with the value of its function known: the four registers receive it. -/
theorem execCpuid_of_cpuidFn {s : State} (hp : Placed 2 s) {q : Quad}
    (hq : s.cfg.cpuidFn s.eax s.cpuidDraws = q) :
    exec .cpuid s = .next (((s.setQuad q).useDraws 4).setEip (s.eip + 2)) :=
  hq ▸ execCpuid_of hp

/-- Settles O11: the function number selects no row of the table, so the four registers are the four
draws of this execution. -/
theorem cpuidUndefinedFunctionsDraw : Obligations.CpuidUndefinedFunctionsDraw := by
  intro s hp h0 h1 hbase hext
  have hdraws := Config.cpuidFn_undefined s.cpuidDraws h0 h1 hbase hext
  have hroom : s.draws + 3 < s.draws + 4 := by omega
  exact ⟨_, execCpuid_of_cpuidFn hp hdraws, s.draws, le_rfl, hroom, rfl, rfl, rfl, rfl⟩

/-- Settles O1: decoding by the round trip of encoder and decoder, the effect and the frame from the
next state of CPUID. -/
theorem cpuidWritesItsFunctionAndNothingElse : Obligations.CpuidWritesItsFunctionAndNothingElse := by
  refine ⟨decode_encode .cpuid, fun s hp => ⟨_, execCpuid_of hp, ⟨s.cpuidDraws, rfl⟩, rfl, ?_, rfl,
    (((SameSystem.refl s).setQuad _).useDraws 4).setEip _, ⟨fun _ => rfl, rfl⟩⟩⟩
  intro r hr
  rw [State.setEip_reg, State.useDraws_reg, State.setQuad_reg _ _ r hr]

/-- Settles O2: function 0 is the vendor row on every processor. -/
theorem cpuidVendorString : Obligations.CpuidVendorString := by
  intro s h0 hp
  have hvendor : s.cfg.cpuidFn s.eax s.cpuidDraws = vendorQuad s.cfg.largestStd := by
    rw [h0, Config.cpuidFn_zero]
  exact ⟨_, execCpuid_of_cpuidFn hp hvendor, rfl, rfl, rfl, Config.largestStd_of_ne,
    vendorChars_vendorQuad s.cfg.largestStd⟩

/-- Settles O12: both executions compute the same function of the configuration, EAX and the draws. -/
theorem cpuidDependsOnFunctionNumberOnly : Obligations.CpuidDependsOnFunctionNumberOnly := by
  intro s s' hcfg heax hdraws hp hp'
  have hsame : s'.cfg.cpuidFn s'.eax s'.cpuidDraws = s.cfg.cpuidFn s.eax s.cpuidDraws := by
    rw [hcfg, heax, State.cpuidDraws, hdraws, State.cpuidDraws]
  exact ⟨_, _, execCpuid_of hp, execCpuid_of_cpuidFn hp' hsame, rfl, rfl, rfl, rfl⟩

end Machine

end Sys2Proof
end

section
/-! PROOFS. What each function number gives (41_cpuid_values.md): the rows of the dispatch, the values
that depend on the processor, and the fields of a signature. -/

namespace Sys2Proof

/-! ### Rows of the dispatch on the function number (R103) -/

theorem Config.cpuidFn_one (c : Config) (d : Quad) :
    c.cpuidFn 1 d = ⟨c.stdSignature, d.ebx, d.ecx, c.stdFeatures⟩ := by
  simp [Config.cpuidFn]

theorem Config.cpuidFn_base (c : Config) (d : Quad) : c.cpuidFn 0x80000000 d =
    ⟨if c.hasExt then c.largestExt else 0, d.ebx, d.ecx, d.edx⟩ := by
  simp [Config.cpuidFn]

/-- Above 8000_0000h the extended functions of the processor answer. -/
theorem Config.cpuidFn_of_base_lt {c : Config} {x : ExtData} (hx : c.extData = some x) {f : Word}
    (hf : 0x80000000 < f) (d : Quad) : c.cpuidFn f d = c.extendedFn x f d := by
  have hne : ∀ k : Word, k ≤ 0x80000000 → f ≠ k := fun _ hk h => BitVec.not_lt.2 hk (h ▸ hf)
  rw [Config.cpuidFn, if_neg (hne _ (by decide)), if_neg (hne _ (by decide)),
    if_neg (hne _ (by decide)), hx]

section
variable {c : Config} {x : ExtData} (hx : c.extData = some x) (d : Quad)
include hx

theorem Config.cpuidFn_amdSignature :
    c.cpuidFn 0x80000001 d = ⟨c.amdSignature x, d.ebx, d.ecx, x.features⟩ :=
  (cpuidFn_of_base_lt hx (by decide) d).trans (by simp [Config.extendedFn])

theorem Config.cpuidFn_name2 : c.cpuidFn 0x80000002 d = x.name2 :=
  (cpuidFn_of_base_lt hx (by decide) d).trans (by simp [Config.extendedFn])

theorem Config.cpuidFn_name3 : c.cpuidFn 0x80000003 d = x.name3 :=
  (cpuidFn_of_base_lt hx (by decide) d).trans (by simp [Config.extendedFn])

theorem Config.cpuidFn_name4 : c.cpuidFn 0x80000004 d = x.name4 :=
  (cpuidFn_of_base_lt hx (by decide) d).trans (by simp [Config.extendedFn])

theorem Config.cpuidFn_cache : c.cpuidFn 0x80000005 d = ⟨d.eax, x.tlb, x.l1d, x.l1i⟩ :=
  (cpuidFn_of_base_lt hx (by decide) d).trans (by simp [Config.extendedFn])

end

/-! ### The values that depend on the processor -/

theorem Config.hasExt_of_some {c : Config} {x : ExtData} (hx : c.extData = some x) :
    c.hasExt = true := by
  simp [Config.hasExt, hx]

theorem Config.hasExt_of_none {c : Config} (hx : c.extData = none) : c.hasExt = false := by
  simp [Config.hasExt, hx]

theorem Config.largestExt_of_ne {c : Config} (h : c.proc ≠ .k6p_3dM9) :
    c.largestExt = 0x80000005 := if_neg h

/-- `largestExtAbove` counts from 8000_0005h and cannot wrap (R157). -/
theorem Config.largestExt_toNat_m9 {c : Config} (h : c.proc = .k6p_3dM9) :
    c.largestExt.toNat = 0x80000005 + c.m9.largestExtAbove.val := by
  have hlt := c.m9.largestExtAbove.isLt
  rw [Config.largestExt, if_pos h, BitVec.toNat_add_of_lt] <;> simp <;> omega

theorem Config.extData_k5 {c : Config} (h : c.proc = .k5M1 ∨ c.proc = .k5M2 ∨ c.proc = .k5M3) :
    c.extData = some extDataK5 := by
  rcases h with h | h | h <;> simp [Config.extData, h]

theorem Config.extData_k6 {c : Config} (h : c.proc = .k6M6 ∨ c.proc = .k6M7) :
    ∃ features, c.extData = some (extDataK6 features) := by
  rcases h with h | h <;> simp [Config.extData, h]

theorem Config.extData_k63D {c : Config} (h : c.proc = .k6_3dM8) : c.extData = some extDataK63D := by
  simp [Config.extData, h]

theorem Config.extData_m9 {c : Config} (h : c.proc = .k6p_3dM9) :
    c.extData = some (extDataM9 c.m9) := by
  simp [Config.extData, h]

/-! ### The fields of a signature (R106, R111) -/

section
variable (high : BitVec 20) (family model stepping : BitVec 4)

theorem signatureWord_eq_append_low :
    signatureWord high family model stepping = high ++ family ++ (model ++ stepping) :=
  BitVec.append_assoc

theorem signatureWord_eq_high_append :
    signatureWord high family model stepping = high ++ (family ++ model ++ stepping) := by
  rw [signatureWord_eq_append_low, BitVec.append_assoc, BitVec.append_assoc (x₁ := family)]
  rfl

@[simp] theorem sigStepping_signatureWord :
    sigStepping (signatureWord high family model stepping) = stepping :=
  BitVec.extractLsb'_append_eq_right

@[simp] theorem sigModel_signatureWord :
    sigModel (signatureWord high family model stepping) = model :=
  (BitVec.extractLsb'_append_eq_of_le le_rfl).trans BitVec.extractLsb'_append_eq_right

@[simp] theorem sigFamily_signatureWord :
    sigFamily (signatureWord high family model stepping) = family := by
  rw [signatureWord_eq_append_low]
  exact (BitVec.extractLsb'_append_eq_of_le le_rfl).trans BitVec.extractLsb'_append_eq_right

@[simp] theorem sigReserved_signatureWord :
    sigReserved (signatureWord high family model stepping) = high := by
  rw [signatureWord_eq_high_append]
  exact BitVec.extractLsb'_append_eq_left

/-- Bits [7:0]: model and stepping. -/
theorem signatureWord_low8 :
    (signatureWord high family model stepping).extractLsb' 0 8 = model ++ stepping := by
  rw [signatureWord_eq_append_low]
  exact BitVec.extractLsb'_append_eq_right

/-- Bits [11:0]: family, model and stepping. -/
theorem signatureWord_low12 :
    (signatureWord high family model stepping).extractLsb' 0 12 = family ++ model ++ stepping := by
  rw [signatureWord_eq_high_append]
  exact BitVec.extractLsb'_append_eq_right

theorem signatureWord_or (high' : BitVec 20) (family' model' stepping' : BitVec 4) :
    signatureWord high family model stepping ||| signatureWord high' family' model' stepping' =
      signatureWord (high ||| high') (family ||| family') (model ||| model')
        (stepping ||| stepping') := by
  refine BitVec.or_append.trans ?_
  rw [BitVec.or_append, BitVec.or_append, signatureWord]

/-- A signature is the word printed with the stepping digit 0, the stepping filled in (R158). -/
theorem signatureWord_eq_or_stepping : signatureWord high family model stepping =
    signatureWord high family model 0 ||| stepping.zeroExtend 32 := by
  have hdigit : stepping.zeroExtend 32 = signatureWord 0 0 0 stepping :=
    BitVec.setWidth_eq_append (by decide)
  rw [hdigit, signatureWord_or]
  simp

end

end Sys2Proof
end

section
/-! PROOFS. The statements about the words of CPUID (41_cpuid_values.md): every row of doc00 Table 10,
the open words of model 9, and what the words decode to. -/

namespace Sys2Proof

namespace Machine

/-! ### Rows of doc00 Table 10, for every configuration -/

/-- A printed cell holds its value, any other a draw: what `CPUID_FN` gives when the register would
otherwise receive the draw number `k` of the execution. -/
theorem cellHolds_getD {s t : State} (ht : t.draws = s.draws + 4) {k : Nat} (hk : k < 4)
    (cell : Option Word) : CellHolds s t cell (cell.getD (Config.draw32 (s.draws + k))) := by
  cases cell with
  | some v => rfl
  | none => exact ⟨s.draws + k, Nat.le_add_right _ _, by omega, rfl⟩

/-- A row holds when the function gives its printed cells and leaves each other register its draw. -/
theorem cpuidRow_of_cpuidFn {cfg : Config} {f : Word} {a b c d : Option Word}
    (h : ∀ q : Quad, cfg.cpuidFn f q =
      ⟨a.getD q.eax, b.getD q.ebx, c.getD q.ecx, d.getD q.edx⟩) : CpuidRow cfg f a b c d := by
  rintro s rfl rfl hp
  exact ⟨_, execCpuid_of_cpuidFn hp (h _), cellHolds_getD rfl (k := 0) (by decide) a,
    cellHolds_getD rfl (k := 1) (by decide) b, cellHolds_getD rfl (k := 2) (by decide) c,
    cellHolds_getD rfl (k := 3) (by decide) d⟩

/-- What a row says of a given execution. -/
theorem CpuidRow.cells {s t : State} {f : Word} {a b c d : Option Word}
    (h : CpuidRow s.cfg f a b c d) (hf : s.eax = f) (hp : Placed 2 s) (ht : exec .cpuid s = .next t) :
    CellHolds s t a t.eax ∧ CellHolds s t b t.ebx ∧ CellHolds s t c t.ecx ∧
      CellHolds s t d t.edx := by
  obtain ⟨t', ht', hcells⟩ := h s rfl hf hp
  obtain rfl : t' = t := by simpa [ht'] using ht
  exact hcells

/-- A row of four printed cells gives the registers as a whole. -/
theorem CpuidRow.quad {s t : State} {f : Word} {q : Quad}
    (h : CpuidRow s.cfg f (some q.eax) (some q.ebx) (some q.ecx) (some q.edx)) (hf : s.eax = f)
    (hp : Placed 2 s) (ht : exec .cpuid s = .next t) :
    (⟨t.eax, t.ebx, t.ecx, t.edx⟩ : Quad) = q := by
  obtain ⟨ha, hb, hc, hd⟩ := h.cells hf hp ht
  exact Quad.mk.injEq .. ▸ ⟨ha, hb, hc, hd⟩

theorem cpuidRow_vendor (c : Config) : CpuidRow c 0 (some c.largestStd) (some 0x68747541)
    (some 0x444D4163) (some 0x69746E65) :=
  cpuidRow_of_cpuidFn c.cpuidFn_zero

theorem cpuidRow_std (c : Config) :
    CpuidRow c 1 (some c.stdSignature) none none (some c.stdFeatures) :=
  cpuidRow_of_cpuidFn c.cpuidFn_one

/-- The rows of the name and the cache functions, 8000_0002h to 8000_0005h, with the words of `x`. -/
def ExtDataRows (c : Config) (x : ExtData) : Prop :=
  CpuidRow c 0x80000002 (some x.name2.eax) (some x.name2.ebx) (some x.name2.ecx)
    (some x.name2.edx) ∧
  CpuidRow c 0x80000003 (some x.name3.eax) (some x.name3.ebx) (some x.name3.ecx)
    (some x.name3.edx) ∧
  CpuidRow c 0x80000004 (some x.name4.eax) (some x.name4.ebx) (some x.name4.ecx)
    (some x.name4.edx) ∧
  CpuidRow c 0x80000005 none (some x.tlb) (some x.l1d) (some x.l1i)

section
variable {c : Config} {x : ExtData} (hx : c.extData = some x)
include hx

theorem cpuidRow_base : CpuidRow c 0x80000000 (some c.largestExt) none none none :=
  cpuidRow_of_cpuidFn fun d => by rw [c.cpuidFn_base, if_pos (Config.hasExt_of_some hx)]; rfl

theorem cpuidRow_amd :
    CpuidRow c 0x80000001 (some (c.amdSignature x)) none none (some x.features) :=
  cpuidRow_of_cpuidFn (Config.cpuidFn_amdSignature hx)

theorem extDataRows_of_some : ExtDataRows c x :=
  ⟨cpuidRow_of_cpuidFn (Config.cpuidFn_name2 hx), cpuidRow_of_cpuidFn (Config.cpuidFn_name3 hx),
    cpuidRow_of_cpuidFn (Config.cpuidFn_name4 hx), cpuidRow_of_cpuidFn (Config.cpuidFn_cache hx)⟩

end

/-! ### Rows of the processors whose words are printed (all but model 9) -/

theorem vendorRow_of_ne {c : Config} (h : c.proc ≠ .k6p_3dM9) : VendorRow c := by
  rw [VendorRow, ← Config.largestStd_of_ne h]
  exact cpuidRow_vendor c

theorem noExtendedRows_of_none {c : Config} (h : c.proc ≠ .k6p_3dM9) (hx : c.extData = none) :
    NoExtendedRows c := by
  have hext : c.hasExt = false := Config.hasExt_of_none hx
  refine ⟨vendorRow_of_ne h, cpuidRow_of_cpuidFn fun q => ?_, fun f hlo _ =>
    cpuidRow_of_cpuidFn fun q => ?_⟩
  · rw [c.cpuidFn_base, hext]
    rfl
  · have hne : ∀ k : Word, k < 0x80000001 → f ≠ k := fun k hk hf => BitVec.not_lt.2 hlo (hf ▸ hk)
    exact Config.cpuidFn_undefined q (hne _ (by decide)) (hne _ (by decide)) (hne _ (by decide))
      (by simp [hext])

/-- The rows but those of the two signatures, where there are extended functions. -/
theorem namedRows_of_some {c : Config} {x : ExtData} (h : c.proc ≠ .k6p_3dM9)
    (hx : c.extData = some x) :
    VendorRow c ∧ CpuidRow c 0x80000000 (some 0x80000005) none none none ∧ ExtDataRows c x :=
  ⟨vendorRow_of_ne h, Config.largestExt_of_ne h ▸ cpuidRow_base hx, extDataRows_of_some hx⟩

/-- The row of function 1 from the printed signature (stepping digit 0) and feature word. -/
theorem stdRow_of_ne {c : Config} (h : c.proc ≠ .k6p_3dM9) {sig features : Word}
    (hsig : signatureWord 0 c.family c.model 0 = sig) (hfeatures : c.stdFeatures = features) :
    CpuidRow c 1 (some (withStepping c sig)) none none (some features) := by
  have hword : c.stdSignature = withStepping c sig := by
    rw [Config.stdSignature, if_neg h, signatureWord_eq_or_stepping, hsig, withStepping]
  exact hword ▸ hfeatures ▸ cpuidRow_std c

/-- The row of function 8000_0001h from the printed signature (stepping digit 0). -/
theorem amdRow_of_some {c : Config} {x : ExtData} (hx : c.extData = some x) {sig : Word}
    (hsig : signatureWord x.signatureHigh x.generation c.model 0 = sig) :
    CpuidRow c 0x80000001 (some (withStepping c sig)) none none (some x.features) := by
  have hword : c.amdSignature x = withStepping c sig := by
    rw [Config.amdSignature, signatureWord_eq_or_stepping, hsig, withStepping]
  exact hword ▸ cpuidRow_amd hx

/-- A printed signature on stepping 0 is the word itself. -/
theorem withStepping_zero {c : Config} (h : c.stepping = 0) (w : Word) : withStepping c w = w := by
  rw [withStepping, h]
  exact BitVec.or_zero

/-! ### The processors -/

/-- Settles O4: no extended functions, and a signature with the configured model digit. -/
theorem cpuidValuesAm486 : Obligations.CpuidValuesAm486 := by
  rintro ⟨_, _, model, _, _, _, _⟩ rfl
  have hsig : ∀ m : BitVec 4, signatureWord 0 4 m 0 = 0x00000400 ||| m.zeroExtend 32 <<< 4 := by
    decide
  exact ⟨noExtendedRows_of_none (by simp) rfl, stdRow_of_ne (by simp) (hsig model) rfl⟩

/-- Settles O5: no extended functions. -/
theorem cpuidValuesK5Model0 : Obligations.CpuidValuesK5Model0 := by
  rintro ⟨_, _, _, _, _, _, _⟩ rfl
  have hsig : signatureWord 0 5 0 0 = 0x00000500 := by decide
  exact ⟨noExtendedRows_of_none (by simp) rfl, stdRow_of_ne (by simp) hsig rfl⟩

/-- Settles O6: the three models share every word but the model digit of the two signatures. -/
theorem cpuidValuesK5Models123 : Obligations.CpuidValuesK5Models123 := by
  rintro c p sig hmem rfl
  obtain ⟨hproc, hsig, hfamily, hfeatures⟩ :
      (c.proc = .k5M1 ∨ c.proc = .k5M2 ∨ c.proc = .k5M3) ∧ signatureWord 0 5 c.model 0 = sig ∧
        c.family = 5 ∧ c.stdFeatures = 0x000021BF := by
    simp only [List.mem_cons, Prod.mk.injEq, List.not_mem_nil, or_false] at hmem
    rcases hmem with ⟨h, rfl⟩ | ⟨h, rfl⟩ | ⟨h, rfl⟩ <;>
    · simp only [Config.model, Config.family, Config.stdFeatures, h]
      decide
  have hne : c.proc ≠ .k6p_3dM9 := by rcases hproc with h | h | h <;> simp [h]
  have hx := Config.extData_k5 hproc
  exact ⟨namedRows_of_some hne hx, stdRow_of_ne hne (hfamily ▸ hsig) hfeatures,
    amdRow_of_some hx hsig⟩

theorem k6Rows_of_some {c : Config} {features : Word} (h : c.proc ≠ .k6p_3dM9)
    (hx : c.extData = some (extDataK6 features)) : K6Rows c :=
  namedRows_of_some h hx

/-- Settles O7: family 5 in the standard signature, generation 6 in the other. -/
theorem cpuidValuesK6Model6 : Obligations.CpuidValuesK6Model6 := by
  rintro ⟨_, _, _, _, _, _, _⟩ rfl
  have hstd : signatureWord 0 5 6 0 = 0x00000560 := by decide
  have hamd : signatureWord 0 6 6 0 = 0x00000660 := by decide
  exact ⟨k6Rows_of_some (by simp) rfl, stdRow_of_ne (by simp) hstd rfl,
    amdRow_of_some (x := extDataK6 0x008001BF) rfl hamd⟩

/-- Settles O8: as model 6, but for the extended feature word, which the stepping decides. -/
theorem cpuidValuesK6Model7 : Obligations.CpuidValuesK6Model7 := by
  intro c h
  have hne : c.proc ≠ .k6p_3dM9 := by simp [h]
  have hmodel : c.model = 7 := by simp [Config.model, h]
  have hx : c.extData = some (extDataK6 (if c.stepping = 0 then 0x008001BF else 0x008009BF)) := by
    simp [Config.extData, h]
  have hsig : signatureWord 0 6 7 0 = 0x00000670 := by decide
  have hstd : CpuidRow c 1 (some (withStepping c 0x00000570)) none none (some 0x008001BF) :=
    stdRow_of_ne hne (by rw [hmodel, Config.family, h]; decide) (by rw [Config.stdFeatures, h])
  have hamd : CpuidRow c 0x80000001 (some (withStepping c 0x00000670)) none none
      (some (if c.stepping = 0 then 0x008001BF else 0x008009BF)) :=
    amdRow_of_some hx (hmodel ▸ hsig)
  refine ⟨k6Rows_of_some hne hx, hstd, fun hA => ?_, fun hA => ?_⟩
  · rw [withStepping_zero hA] at hstd hamd
    rw [if_pos hA] at hamd
    exact ⟨hstd, hamd⟩
  · rw [if_neg hA] at hamd
    exact hamd

/-- Settles O9: the words of `extDataK63D`, family 5 and generation 6 in the two signatures. -/
theorem cpuidValuesK63DModel8 : Obligations.CpuidValuesK63DModel8 := by
  intro c h
  have hne : c.proc ≠ .k6p_3dM9 := by simp [h]
  have hmodel : c.model = 8 := by simp [Config.model, h]
  have hx := Config.extData_k63D h
  obtain ⟨hvendor, hbase, hnames⟩ := namedRows_of_some hne hx
  exact ⟨hvendor,
    stdRow_of_ne hne (by rw [hmodel, Config.family, h]; decide) (by rw [Config.stdFeatures, h]),
    hbase, amdRow_of_some hx (by rw [hmodel]; decide), hnames⟩

/-! ### The open words of model 9 -/

theorem stdSignature_m9 {c : Config} (h : c.proc = .k6p_3dM9) :
    c.stdSignature = signatureWord c.m9.signatureHigh 5 9 c.stepping := by
  simp [Config.stdSignature, Config.family, Config.model, h]

theorem amdSignature_m9 {c : Config} (h : c.proc = .k6p_3dM9) : c.amdSignature (extDataM9 c.m9) =
    signatureWord c.m9.amdSignatureHigh c.m9.generation 9 c.stepping := by
  simp [Config.amdSignature, Config.model, extDataM9, h]

/-- Settles O10: each clause is the row of its function, read off for the configuration of model 9. -/
theorem cpuidValuesModel9 : Obligations.CpuidValuesModel9 := by
  intro s h hp
  obtain ⟨t, ht⟩ : ∃ t, exec .cpuid s = .next t := ⟨_, execCpuid_of hp⟩
  have hx := Config.extData_m9 h
  obtain ⟨hname2, hname3, hname4, hcache⟩ := extDataRows_of_some hx
  refine ⟨t, ht, fun hf => ?_, fun hf => ?_, fun hf => ?_, fun hf => ?_,
    fun hf => hname2.quad hf hp ht, fun hf => hname3.quad hf hp ht, fun hf => hname4.quad hf hp ht,
    fun hf => hcache.cells hf hp ht⟩
  · obtain ⟨heax, hrest⟩ := (cpuidRow_vendor s.cfg).cells hf hp ht
    exact ⟨heax.trans (if_pos h), hrest⟩
  · obtain ⟨heax, hebx, hecx, hedx⟩ := (cpuidRow_std s.cfg).cells hf hp ht
    have hsig := heax.trans (stdSignature_m9 h)
    have hfeatures : s.cfg.stdFeatures = s.cfg.m9.stdFeatures := by rw [Config.stdFeatures, h]
    rw [hsig]
    exact ⟨signatureWord_low12 .., sigReserved_signatureWord .., hebx, hecx, hedx.trans hfeatures⟩
  · obtain ⟨heax, hdraws⟩ := (cpuidRow_base hx).cells hf hp ht
    have hvalue : t.eax.toNat = 0x80000005 + s.cfg.m9.largestExtAbove.val :=
      (congrArg BitVec.toNat heax).trans (Config.largestExt_toNat_m9 h)
    exact ⟨BitVec.le_def.2 (hvalue ▸ Nat.le_add_right _ _), hvalue, hdraws⟩
  · obtain ⟨heax, hebx, hecx, hedx⟩ := (cpuidRow_amd hx).cells hf hp ht
    have hsig := heax.trans (amdSignature_m9 h)
    rw [hsig]
    exact ⟨signatureWord_low8 .., sigFamily_signatureWord .., sigReserved_signatureWord .., hebx, hecx,
      hedx⟩

/-- Settles O3: function 1 gives the standard signature, whose fields are the configuration's. -/
theorem cpuidSignatureFields : Obligations.CpuidSignatureFields := by
  intro s h1 hp
  obtain ⟨t, ht, heax, -⟩ := cpuidRow_std s.cfg s rfl h1 hp
  have hsig : t.eax = s.cfg.stdSignature := heax
  refine ⟨t, ht, ?_, ?_, ?_, fun h => ?_⟩ <;> rw [hsig, Config.stdSignature]
  · exact sigStepping_signatureWord ..
  · rw [sigFamily_signatureWord, Config.family]
    cases s.cfg.proc <;> rfl
  · exact sigModel_signatureWord ..
  · rw [sigReserved_signatureWord, if_neg h]

/-! ### What the words decode to -/

/-- A standard feature word reports the listed features and no reserved bit (R107, R108). -/
def StdWordDecodes (p : Proc) (word : Word) (listed : List Feature) : Prop :=
  (∀ f, stdFeature p word f = decide (f ∈ listed)) ∧ ∀ b ∈ stdReservedBits p, word.getLsbD b = false

/-- An extended feature word reports the listed features and no reserved bit (R112). -/
def ExtWordDecodes (word : Word) (listed : List Feature) : Prop :=
  (∀ f, extFeature word f = decide (f ∈ listed)) ∧ ∀ b ∈ extReservedBits, word.getLsbD b = false

theorem stdWordDecodes_am486 : StdWordDecodes .am486_5x86 0x00000001 [.fpu] :=
  ⟨fun f => by cases f <;> rfl, by decide⟩

theorem stdWordDecodes_k5M0 :
    StdWordDecodes .k5M0 0x000003BF (.globalPaging :: commonFeatures) :=
  ⟨fun f => by cases f <;> rfl, by decide⟩

theorem stdWordDecodes_k5 {p : Proc} (h : p ≠ .k5M0) :
    StdWordDecodes p 0x000021BF (.globalPaging :: commonFeatures) := by
  refine ⟨fun f => ?_, ?_⟩
  · cases f <;> simp [stdFeature, stdFeatureBit, h, commonFeatures]
  · simp [stdReservedBits, h]

theorem stdWordDecodes_k6 {p : Proc} (h : p ≠ .k5M0) :
    StdWordDecodes p 0x008001BF (.mmx :: commonFeatures) := by
  refine ⟨fun f => ?_, ?_⟩
  · cases f <;> simp [stdFeature, stdFeatureBit, h, commonFeatures]
  · simp [stdReservedBits, h]

theorem extWordDecodes_k5 : ExtWordDecodes 0x000021BF (.globalPaging :: commonFeatures) :=
  ⟨fun f => by cases f <;> rfl, by decide⟩

theorem extWordDecodes_k6 : ExtWordDecodes 0x008001BF (.mmx :: commonFeatures) :=
  ⟨fun f => by cases f <;> rfl, by decide⟩

theorem extWordDecodes_k6_syscall :
    ExtWordDecodes 0x008009BF (.syscallSysret :: .mmx :: commonFeatures) :=
  ⟨fun f => by cases f <;> rfl, by decide⟩

theorem extWordDecodes_k63D :
    ExtWordDecodes 0x808009BF (.amd3d :: .syscallSysret :: .mmx :: commonFeatures) :=
  ⟨fun f => by cases f <;> rfl, by decide⟩

/-- On every processor whose words are printed, the standard word decodes to R151's list. -/
theorem stdWordDecodes_of_ne {c : Config} (h : c.proc ≠ .k6p_3dM9) :
    StdWordDecodes c.proc c.stdFeatures (listedStdFeatures c) := by
  obtain ⟨proc, _, _, _, _, _, _⟩ := c
  cases proc with
  | am486_5x86 => exact stdWordDecodes_am486
  | k5M0 => exact stdWordDecodes_k5M0
  | k5M1 | k5M2 | k5M3 => exact stdWordDecodes_k5 (by simp)
  | k6M6 | k6M7 | k6_3dM8 => exact stdWordDecodes_k6 (by simp)
  | k6p_3dM9 => exact absurd rfl h

/-- On every processor whose words are printed, the extended word, if there is one, decodes to R151's
list. -/
theorem extWordDecodes_of_ne {c : Config} (h : c.proc ≠ .k6p_3dM9) {x : ExtData}
    (hx : c.extData = some x) : ExtWordDecodes x.features (listedExtFeatures c) := by
  obtain ⟨proc, stepping, _, _, _, _, _⟩ := c
  cases proc with
  | am486_5x86 | k5M0 => cases hx
  | k5M1 | k5M2 | k5M3 => cases hx; exact extWordDecodes_k5
  | k6M6 => cases hx; exact extWordDecodes_k6
  | k6M7 =>
    cases hx
    by_cases hA : stepping = 0
    · simpa only [extDataK6, listedExtFeatures, if_pos hA] using extWordDecodes_k6
    · simpa only [extDataK6, listedExtFeatures, if_neg hA] using extWordDecodes_k6_syscall
  | k6_3dM8 => cases hx; exact extWordDecodes_k63D
  | k6p_3dM9 => exact absurd rfl h

/-- Settles O13: each of the two words, on each processor. -/
theorem featureWordsDecoded : Obligations.FeatureWordsDecoded := by
  intro c h
  obtain ⟨hreports, hreserved⟩ := stdWordDecodes_of_ne h
  exact ⟨hreports, hreserved, fun x hx => extWordDecodes_of_ne h hx⟩

theorem nameOf_of_some {c : Config} {x : ExtData} (hx : c.extData = some x) (d : Quad) :
    nameOf c d = nameString x.name2 x.name3 x.name4 := by
  rw [nameOf, Config.cpuidFn_name2 hx, Config.cpuidFn_name3 hx, Config.cpuidFn_name4 hx]

/-- Settles O14: the name functions give the words of the processor's table, whose bytes are the
name. -/
theorem nameStringsDecoded : Obligations.NameStringsDecoded := by
  intro c d
  refine ⟨fun h => ?_, fun h => ?_, fun h => ?_⟩
  · rw [nameOf_of_some (Config.extData_k5 h)]
    decide
  · obtain ⟨features, hx⟩ := Config.extData_k6 h
    rw [nameOf_of_some hx]
    simp only [extDataK6]
    decide
  · rw [nameOf_of_some (Config.extData_k63D h)]
    decide

theorem cacheWords_k6 {c : Config} (h : c.proc = .k6M6 ∨ c.proc = .k6M7 ∨ c.proc = .k6_3dM8)
    (d : Quad) : c.cpuidFn 0x80000005 d = ⟨d.eax, 0x02800140, 0x20020220, 0x20020220⟩ := by
  rcases h with h | h | h
  · obtain ⟨_, hx⟩ := Config.extData_k6 (.inl h)
    exact Config.cpuidFn_cache hx d
  · obtain ⟨_, hx⟩ := Config.extData_k6 (.inr h)
    exact Config.cpuidFn_cache hx d
  · exact Config.cpuidFn_cache (Config.extData_k63D h) d

/-- Settles O15: the cache words of the two tables, byte by byte. -/
theorem cacheInformationDecoded : Obligations.CacheInformationDecoded := by
  intro c d
  refine ⟨fun h => ?_, fun h => ?_⟩
  · rw [Config.cpuidFn_cache (Config.extData_k5 h)]
    simp only [extDataK5]
    decide
  · rw [cacheWords_k6 h]
    dsimp only
    decide

end Machine

end Sys2Proof
end

section
/-! PROOFS. The statements about SYSCALL and SYSRET (42_syscall_sysret.md): the effect and the frame of
each, the selectors and the privilege they leave, the conditions under which they stop, and the pair. -/

namespace Sys2Proof

/-! ### The feature (R180) -/

theorem Config.hasSyscall_of_some {c : Config} {x : ExtData} (hx : c.extData = some x) :
    c.hasSyscall = x.features.getLsbD 11 := by
  rw [Config.hasSyscall, hx]

theorem Config.hasSyscall_of_none {c : Config} (hx : c.extData = none) : c.hasSyscall = false := by
  rw [Config.hasSyscall, hx]

theorem Config.hasSyscall_k5 {c : Config} (h : c.proc = .k5M1 ∨ c.proc = .k5M2 ∨ c.proc = .k5M3) :
    c.hasSyscall = false := by
  rw [Config.hasSyscall_of_some (Config.extData_k5 h)]
  decide

theorem Config.hasSyscall_k6M6 {c : Config} (h : c.proc = .k6M6) : c.hasSyscall = false := by
  have hx : c.extData = some (extDataK6 0x008001BF) := by rw [Config.extData, h]
  rw [Config.hasSyscall_of_some hx]
  decide

theorem Config.hasSyscall_k63D {c : Config} (h : c.proc = .k6_3dM8) : c.hasSyscall = true := by
  rw [Config.hasSyscall_of_some (Config.extData_k63D h)]
  decide

/-- On model 9 the open feature word decides (R157). -/
theorem Config.hasSyscall_m9 {c : Config} (h : c.proc = .k6p_3dM9) :
    c.hasSyscall = c.m9.extFeatures.getLsbD 11 := by
  rw [Config.hasSyscall_of_some (Config.extData_m9 h), extDataM9]

/-- On model 7 the stepping decides (R148, R156). -/
theorem Config.hasSyscall_k6M7 {c : Config} (h : c.proc = .k6M7) :
    c.hasSyscall = decide (c.stepping ≠ 0) := by
  have hx : c.extData = some (extDataK6 (if c.stepping = 0 then 0x008001BF else 0x008009BF)) := by
    rw [Config.extData, h]
  rw [Config.hasSyscall_of_some hx, extDataK6]
  by_cases hA : c.stepping = 0
  · rw [if_pos hA, decide_eq_false (not_not.2 hA)]
    decide
  · rw [if_neg hA, decide_eq_true hA]
    decide

namespace Machine

/-- Settles O23: CPUID function 8000_0001h gives the feature word whose bit 11 is the feature; the
processors one by one. -/
theorem systemCallFeatureIsCpuidBit11 : Obligations.SystemCallFeatureIsCpuidBit11 := by
  refine ⟨fun s hf hext hp => ?_, fun c hext => ?_, fun c => ?_⟩
  · obtain ⟨x, hx⟩ := Option.isSome_iff_exists.1 hext
    obtain ⟨t, ht, -, -, -, hedx⟩ := cpuidRow_amd hx s rfl hf hp
    have hword : t.edx = x.features := hedx
    exact ⟨t, ht, by rw [hword, Config.hasSyscall_of_some hx]⟩
  · exact Config.hasSyscall_of_none (Option.isNone_iff_eq_none.1 (Option.isSome_eq_false_iff.1 hext))
  · cases h : c.proc with
    | am486_5x86 | k5M0 => exact Config.hasSyscall_of_none (by rw [Config.extData, h])
    | k5M1 => exact Config.hasSyscall_k5 (.inl h)
    | k5M2 => exact Config.hasSyscall_k5 (.inr (.inl h))
    | k5M3 => exact Config.hasSyscall_k5 (.inr (.inr h))
    | k6M6 => exact Config.hasSyscall_k6M6 h
    | k6M7 => exact Config.hasSyscall_k6M7 h
    | k6_3dM8 => exact Config.hasSyscall_k63D h
    | k6p_3dM9 => exact Config.hasSyscall_m9 h

/-! ### When the two instructions go on and when they stop -/

/-- Both instructions have the common conditions first (R181, R190). -/
theorem exec_eq_systemCallEnabled {i : Instr} (h : i = .syscall ∨ i = .sysret) (s : State) :
    ∃ k, exec i s = systemCallEnabled s k := by
  obtain rfl | rfl := h
  · exact ⟨_, by rw [exec, execSyscall]⟩
  · exact ⟨_, by rw [exec, execSysret]⟩

theorem SystemCallReady.syscall_next {s : State} (h : SystemCallReady s) :
    ∃ t, exec .syscall s = .next t :=
  ⟨_, by rw [exec, execSyscall, systemCallEnabled_of h.placed h.feature h.sce]⟩

theorem SystemCallReady.sysret_next {s : State} (h : SystemCallReady s) (hcpl : s.cpl = 0) :
    ∃ t, exec .sysret s = .next t :=
  ⟨_, by rw [exec, execSysret, systemCallEnabled_of h.placed h.feature h.sce,
    if_neg (not_not.2 hcpl)]⟩

/-- The feature is looked at before EFER.SCE (R190, D3). -/
theorem systemCallEnabled_unavailable {s : State} (hp : Placed 2 s) (hf : s.cfg.hasSyscall = false)
    (k : Word → Result) : systemCallEnabled s k = .refused .syscallUnavailable := by
  simp [systemCallEnabled, withNextPc_of hp, hf]

/-- EFER.SCE is looked at before any condition of the instruction itself (R181, R234, D5). -/
theorem systemCallEnabled_disabled {s : State} (hp : Placed 2 s) (hf : s.cfg.hasSyscall = true)
    (he : s.sce = false) (k : Word → Result) : systemCallEnabled s k = raise .invalidOpcode s := by
  simp [systemCallEnabled, withNextPc_of hp, hf, he]

/-- Settles O22: the common conditions stop both instructions at the feature. -/
theorem systemCallsAreRefusedWithoutTheFeature :
    Obligations.SystemCallsAreRefusedWithoutTheFeature := by
  intro s hf hp
  have hrefused : ∀ i, i = .syscall ∨ i = .sysret → exec i s = .refused .syscallUnavailable := by
    intro i hi
    obtain ⟨k, hk⟩ := exec_eq_systemCallEnabled hi s
    rw [hk, systemCallEnabled_unavailable hp hf]
  exact ⟨hrefused _ (.inl rfl), hrefused _ (.inr rfl)⟩

/-- Settles O20: the common conditions stop both instructions at EFER.SCE. -/
theorem systemCallsAreInvalidWhileDisabled : Obligations.SystemCallsAreInvalidWhileDisabled := by
  intro s hf hp he
  have hraised : ∀ i, i = .syscall ∨ i = .sysret → exec i s = raise .invalidOpcode s := by
    intro i hi
    obtain ⟨k, hk⟩ := exec_eq_systemCallEnabled hi s
    rw [hk, systemCallEnabled_disabled hp hf he]
  exact ⟨hraised _ (.inl rfl), hraised _ (.inr rfl)⟩

/-! ### Flags -/

theorem getLsbD_setBit_self (e : Word) (i : Fin 32) (v : Bool) :
    (setBit e i v).getLsbD i = v := by
  rw [getLsbD_setBit _ _ _ _ i.isLt, if_pos rfl]

theorem getLsbD_setBit_of_ne (e : Word) (i : Fin 32) (v : Bool) {k : Nat} (h : k ≠ i) :
    (setBit e i v).getLsbD k = e.getLsbD k := by
  rw [getLsbD_setBit _ _ _ _ i.isLt, if_neg h]

/-- The first of two bits cleared is clear, also where the two are one (log entry 9). -/
theorem getLsbD_clear_clear (e : Word) (i j : Fin 32) :
    (setBit (setBit e i false) j false).getLsbD i = false := by
  rw [getLsbD_setBit _ _ _ _ j.isLt, getLsbD_setBit_self, ite_self]

/-! ### Selectors (R27, R183, R185) -/

/-- A field of a field. -/
theorem extractLsb'_extractLsb'_of_le {w : Nat} (x : BitVec w) (a : Nat) {n b m : Nat}
    (h : b + m ≤ n) : (x.extractLsb' a n).extractLsb' b m = x.extractLsb' (a + b) m := by
  apply BitVec.eq_of_getLsbD_eq
  intro i hi
  have hin : b + i < n := by omega
  simp [hi, hin, Nat.add_assoc]

theorem selectorIndex_nextSelector (sel : Selector) :
    selectorIndex (nextSelector sel) = selectorIndex sel + 1 := by
  apply BitVec.eq_of_toNat_eq
  simp only [selectorIndex, nextSelector, BitVec.toNat_add, BitVec.extractLsb'_toNat,
    Nat.shiftRight_eq_div_pow, BitVec.ofNat_eq_ofNat, BitVec.toNat_ofNat]
  omega

/-- The table indicator and the RPL are kept. -/
theorem nextSelector_low3 (sel : Selector) :
    (nextSelector sel).extractLsb' 0 3 = sel.extractLsb' 0 3 := by
  apply BitVec.eq_of_toNat_eq
  simp only [nextSelector, BitVec.toNat_add, BitVec.extractLsb'_toNat, Nat.shiftRight_zero,
    BitVec.ofNat_eq_ofNat, BitVec.toNat_ofNat]
  omega

/-- Bit 2, the table indicator. -/
theorem nextSelector_bit2 (sel : Selector) :
    (nextSelector sel).extractLsb' 2 1 = sel.extractLsb' 2 1 := by
  have h := congrArg (·.extractLsb' 2 1) (nextSelector_low3 sel)
  simpa only [extractLsb'_extractLsb'_of_le _ _ (show 2 + 1 ≤ 3 by decide)] using h

@[simp] theorem selectorRpl_withRpl3 (sel : Selector) : selectorRpl (withRpl3 sel) = 3 :=
  BitVec.extractLsb'_append_eq_right

/-- Index and table indicator are kept. -/
theorem withRpl3_high14 (sel : Selector) :
    (withRpl3 sel).extractLsb' 2 14 = sel.extractLsb' 2 14 :=
  BitVec.extractLsb'_append_eq_left

/-- Every field above the RPL is kept. -/
theorem withRpl3_extractLsb' (sel : Selector) {b m : Nat} (h : b + m ≤ 14) :
    (withRpl3 sel).extractLsb' (2 + b) m = sel.extractLsb' (2 + b) m := by
  rw [← extractLsb'_extractLsb'_of_le _ _ h, withRpl3_high14, extractLsb'_extractLsb'_of_le _ _ h]

/-- Settles O18: the index steps by one, the bits below it are kept, and forcing the RPL of SS touches
neither the index nor bit 2. -/
theorem stackSelectorIsTheNextDescriptor : Obligations.StackSelectorIsTheNextDescriptor := by
  intro s t
  refine ⟨fun h => ?_, fun h => ?_⟩
  · obtain ⟨-, -, -, rfl⟩ := execSyscall_next h
    exact ⟨selectorIndex_nextSelector _, nextSelector_low3 _, BitVec.toNat_add _ _⟩
  · obtain ⟨-, -, -, -, rfl⟩ := execSysret_next h
    have hindex := withRpl3_extractLsb' (nextSelector s.starSysretSel) (show 1 + 13 ≤ 14 by decide)
    have hbit2 := withRpl3_extractLsb' (nextSelector s.starSysretSel) (show 0 + 1 ≤ 14 by decide)
    exact ⟨hindex.trans (selectorIndex_nextSelector _), hbit2.trans (nextSelector_bit2 _)⟩

/-- Settles O19: the RPL of CS is that of its field of STAR, while CPL and the RPL of SS are forced. -/
theorem privilegeIsForcedApartFromSelectors : Obligations.PrivilegeIsForcedApartFromSelectors := by
  intro s t
  have hrpl : 0 + 2 ≤ 16 := by decide
  refine ⟨fun h => ?_, fun h => ?_⟩
  · obtain ⟨-, -, -, rfl⟩ := execSyscall_next h
    exact ⟨rfl, extractLsb'_extractLsb'_of_le s.star 32 hrpl⟩
  · obtain ⟨-, -, -, -, rfl⟩ := execSysret_next h
    exact ⟨rfl, selectorRpl_withRpl3 _, extractLsb'_extractLsb'_of_le s.star 48 hrpl⟩

/-! ### Effect and frame -/

/-- Settles O16: decoding by the round trip of encoder and decoder, effect and frame from the next state
of SYSCALL. -/
theorem syscallEntersTheOperatingSystem : Obligations.SyscallEntersTheOperatingSystem := by
  refine ⟨decode_encode .syscall, fun s hready => ?_⟩
  obtain ⟨t, ht⟩ := hready.syscall_next
  obtain ⟨-, -, -, rfl⟩ := execSyscall_next ht
  refine ⟨_, ht, rfl, rfl, getLsbD_clear_clear .., getLsbD_setBit_self .., fun i hi => ?_, rfl, rfl,
    rfl, fun r hr => ?_, ⟨fun _ => rfl, rfl⟩, rfl, rfl, rfl⟩
  · simp only [List.mem_cons, List.not_mem_nil, or_false, not_or] at hi
    obtain ⟨hif, hvm⟩ := hi
    exact (getLsbD_setBit_of_ne _ _ _ hvm).trans (getLsbD_setBit_of_ne _ _ _ hif)
  · cases r with
    | ecx => exact absurd (List.mem_singleton_self _) hr
    | _ => rfl

/-- Settles O17: decoding by the round trip of encoder and decoder, effect and frame from the next state
of SYSRET. -/
theorem sysretReturnsToTheApplication : Obligations.SysretReturnsToTheApplication := by
  refine ⟨decode_encode .sysret, fun s hready hcpl => ?_⟩
  obtain ⟨t, ht⟩ := hready.sysret_next hcpl
  obtain ⟨-, -, -, -, rfl⟩ := execSysret_next ht
  refine ⟨_, ht, rfl, getLsbD_setBit_self .., fun i hi => ?_, rfl, withRpl3_high14 _,
    selectorRpl_withRpl3 _, rfl, rfl, rfl, rfl, fun r _ => ?_, ⟨fun _ => rfl, rfl⟩, rfl, rfl, rfl⟩
  · exact getLsbD_setBit_of_ne _ _ _ (List.mem_singleton.not.1 hi)
  · cases r <;> rfl

/-- Settles O24: what SYSRET reads at `u` is what SYSCALL left, and SYSCALL left STAR and the
configuration of `s`. -/
theorem syscallSysretPair : Obligations.SyscallSysretPair := by
  intro s t u ht hcfg hecx hefer hstar hss hcpl hplaced
  obtain ⟨-, hfeature, hsce, rfl⟩ := execSyscall_next ht
  have hcfg : u.cfg = s.cfg := hcfg
  have hstar : u.star = s.star := hstar
  have hready : SystemCallReady u :=
    ⟨hcfg ▸ hfeature, by rw [hcfg, hefer]; exact hsce, hplaced⟩
  obtain ⟨v, hv⟩ := hready.sysret_next hcpl
  obtain ⟨-, -, -, -, rfl⟩ := execSysret_next hv
  rw [← hcfg, ← hstar]
  exact ⟨_, hv, hecx, rfl, getLsbD_setBit_self .., rfl, withRpl3_high14 _, selectorRpl_withRpl3 _,
    congrArg SegReg.base hss, congrArg SegReg.limit hss, congrArg SegReg.attr hss⟩

end Machine

end Sys2Proof
end

section
/-! PROOFS. The statements about the sample-code instructions (43_sample_code_instructions.md): the
effect and the frame of each of the eleven, a PUSH and a POP together, and where they are refused. -/

namespace Sys2Proof.Machine

/-! ### The next state under the conditions of R201 -/

theorem execPushR32_of {r : Reg} {s : State} (hr : SampleReady 1 s) (hs : StackReady (s.esp - 4) s) :
    exec (.pushR32 r) s = .next (((s.storeWord (s.esp - 4).toNat (s.reg r)).setReg .esp
      (s.esp - 4)).setEip (s.eip + 1)) :=
  (sampleCode_of hr.vmClear hr.placed _).trans (push32_of hs.flat hs.writable hs.noWrap _)

theorem execPopR32_of {r : Reg} {s : State} (hr : SampleReady 1 s) (hs : StackReady s.esp s) :
    exec (.popR32 r) s = .next (((s.setReg .esp (s.esp + 4)).setReg r
      (Memory.readWord s.mem s.esp.toNat)).setEip (s.eip + 1)) :=
  (sampleCode_of hr.vmClear hr.placed _).trans (pop32_of hs.flat hs.writable hs.noWrap _)

theorem execMovR32R32_of {a b : Reg} {s : State} (hr : SampleReady 2 s) :
    exec (.movR32R32 a b) s = .next ((s.setReg a (s.reg b)).setEip (s.eip + 2)) :=
  sampleCode_of hr.vmClear hr.placed _

theorem execMovR32Imm32_of {r : Reg} {imm : Word} {s : State} (hr : SampleReady 5 s) :
    exec (.movR32Imm32 r imm) s = .next ((s.setReg r imm).setEip (s.eip + 5)) :=
  sampleCode_of hr.vmClear hr.placed _

theorem execXorEaxImm32_of {imm : Word} {s : State} (hr : SampleReady 5 s) :
    exec (.xorEaxImm32 imm) s = .next (((s.setReg .eax (s.eax ^^^ imm)).withLogicFlags
      (s.eax ^^^ imm)).setEip (s.eip + 5)) :=
  sampleCode_of hr.vmClear hr.placed _

theorem execCmpR32R32_of {a b : Reg} {s : State} (hr : SampleReady 2 s) :
    exec (.cmpR32R32 a b) s =
      .next ((s.setEflags (subFlags (s.reg a) (s.reg b) s.eflags)).setEip (s.eip + 2)) :=
  sampleCode_of hr.vmClear hr.placed _

theorem execTestR32Imm32_of {r : Reg} {imm : Word} {s : State} (hr : SampleReady 6 s) :
    exec (.testR32Imm32 r imm) s = .next ((s.withLogicFlags (s.reg r &&& imm)).setEip (s.eip + 6)) :=
  sampleCode_of hr.vmClear hr.placed _

theorem execJzRel8_of {rel : BitVec 8} {s : State} (hr : SampleReady 2 s) :
    exec (.jzRel8 rel) s =
      .next (s.setEip (if s.zf then branchTarget (s.eip + 2) rel else s.eip + 2)) :=
  sampleCode_of hr.vmClear hr.placed _

theorem execJnzRel8_of {rel : BitVec 8} {s : State} (hr : SampleReady 2 s) :
    exec (.jnzRel8 rel) s =
      .next (s.setEip (if !s.zf then branchTarget (s.eip + 2) rel else s.eip + 2)) :=
  sampleCode_of hr.vmClear hr.placed _

/-! ### The frame of an instruction that goes on -/

/-- The general registers an instruction may write (R100, R182, R185, R202 to R212). -/
def writtenRegs : Instr → List Reg
  | .cpuid => [.eax, .ebx, .ecx, .edx]
  | .syscall => [.ecx]
  | .pushfd | .popfd | .pushR32 _ => [.esp]
  | .popR32 r => [r, .esp]
  | .movR32R32 a _ => [a]
  | .movR32Imm32 r _ => [r]
  | .xorEaxImm32 _ => [.eax]
  | .sysret | .cmpR32R32 .. | .testR32Imm32 .. | .jzRel8 _ | .jnzRel8 _ => []

theorem SameRegsBut.refl (l : List Reg) (s : State) : SameRegsBut l s s := fun _ _ => rfl

/-- A write of a listed register leaves the registers outside the list. -/
theorem SameRegsBut.setReg {l : List Reg} {s t : State} (h : SameRegsBut l s t) {r : Reg}
    (hr : r ∈ l) (v : Word) : SameRegsBut l s (t.setReg r v) := by
  intro q hq
  have hne : q ≠ r := fun e => hq (e ▸ hr)
  rw [State.reg_setReg, if_neg hne, h q hq]

theorem SameRegsBut.setEip {l : List Reg} {s t : State} (h : SameRegsBut l s t) (v : Word) :
    SameRegsBut l s (t.setEip v) :=
  fun q hq => (t.setEip_reg v q).trans (h q hq)

theorem SameRegsBut.setEflags {l : List Reg} {s t : State} (h : SameRegsBut l s t) (v : Word) :
    SameRegsBut l s (t.setEflags v) :=
  fun q hq => (t.setEflags_reg v q).trans (h q hq)

theorem SameRegsBut.useDraws {l : List Reg} {s t : State} (h : SameRegsBut l s t) (n : Nat) :
    SameRegsBut l s (t.useDraws n) :=
  fun q hq => (t.useDraws_reg n q).trans (h q hq)

theorem SameRegsBut.storeWord {l : List Reg} {s t : State} (h : SameRegsBut l s t) (a : Nat)
    (v : Word) : SameRegsBut l s (t.storeWord a v) :=
  fun q hq => (t.storeWord_reg a v q).trans (h q hq)

theorem exec_next_sameRegs {i : Instr} {s t : State} (h : exec i s = .next t) :
    SameRegsBut (writtenRegs i) s t := by
  have hs := SameRegsBut.refl (writtenRegs i) s
  cases i with
  | cpuid =>
    obtain ⟨-, rfl⟩ := execCpuid_next h
    have hquad : SameRegsBut (writtenRegs .cpuid) s (s.setQuad (s.cfg.cpuidFn s.eax s.cpuidDraws)) :=
      fun r hr => State.setQuad_reg _ _ r hr
    exact (hquad.useDraws _).setEip _
  | syscall =>
    obtain ⟨-, -, -, rfl⟩ := execSyscall_next h
    intro r hr
    cases r with
    | ecx => exact absurd (List.mem_singleton_self _) hr
    | _ => rfl
  | sysret =>
    obtain ⟨-, -, -, -, rfl⟩ := execSysret_next h
    intro r _
    cases r <;> rfl
  | pushfd =>
    obtain ⟨-, -, -, -, -, rfl⟩ := execPushfd_next h
    exact ((hs.storeWord _ _).setReg (List.mem_singleton_self _) _).setEip _
  | popfd =>
    obtain ⟨-, -, -, -, -, rfl⟩ := execPopfd_next h
    exact ((hs.setReg (List.mem_singleton_self _) _).setEflags _).setEip _
  | pushR32 r =>
    obtain ⟨-, -, -, -, -, rfl⟩ := execPushR32_next h
    exact ((hs.storeWord _ _).setReg (List.mem_singleton_self _) _).setEip _
  | popR32 r =>
    obtain ⟨-, -, -, -, -, rfl⟩ := execPopR32_next h
    have hesp : Reg.esp ∈ writtenRegs (.popR32 r) := by simp [writtenRegs]
    exact ((hs.setReg hesp _).setReg List.mem_cons_self _).setEip _
  | movR32R32 a b =>
    obtain ⟨-, -, rfl⟩ := execMovR32R32_next h
    exact (hs.setReg (List.mem_singleton_self _) _).setEip _
  | movR32Imm32 r imm =>
    obtain ⟨-, -, rfl⟩ := execMovR32Imm32_next h
    exact (hs.setReg (List.mem_singleton_self _) _).setEip _
  | xorEaxImm32 imm =>
    obtain ⟨-, -, rfl⟩ := execXorEaxImm32_next h
    exact (((hs.setReg (List.mem_singleton_self _) _).setEflags _).useDraws _).setEip _
  | cmpR32R32 a b =>
    obtain ⟨-, -, rfl⟩ := execCmpR32R32_next h
    exact (hs.setEflags _).setEip _
  | testR32Imm32 r imm =>
    obtain ⟨-, -, rfl⟩ := execTestR32Imm32_next h
    exact ((hs.setEflags _).useDraws _).setEip _
  | jzRel8 rel =>
    obtain ⟨-, -, rfl⟩ := execJzRel8_next h
    exact hs.setEip _
  | jnzRel8 rel =>
    obtain ⟨-, -, rfl⟩ := execJnzRel8_next h
    exact hs.setEip _

theorem exec_next_eflags {i : Instr} {s t : State} (h : exec i s = .next t) :
    t.eflags = eflagsAfter i s := by
  obtain ⟨-, -, hflags⟩ := exec_next_effect h
  exact hflags

/-- An instruction that pushes nothing leaves every byte and makes no store (R64, R75). -/
theorem exec_next_sameMemory {i : Instr} {s t : State} (h : exec i s = .next t)
    (hv : pushedWord i s = none) : SameMemory s t := by
  obtain ⟨hmem, hwritten⟩ := exec_next_no_store h hv
  exact ⟨fun a => by rw [hmem], hwritten⟩

/-- An instruction that pushes a word leaves it in the slot below ESP and no other byte changed (R62,
R75). -/
theorem exec_next_pushed {i : Instr} {s t : State} {v : Word} (h : exec i s = .next t)
    (hv : pushedWord i s = some v) :
    Memory.readWord t.mem (s.esp - 4).toNat = v ∧ SameMemoryOutside (s.esp - 4).toNat s t := by
  obtain ⟨hmem, -⟩ := exec_next_store h hv
  rw [SameMemoryOutside, hmem]
  exact ⟨Memory.readWord_writeWord .., fun b hb => Memory.read_writeWord_outside _ _ b _ hb⟩

/-! ### PUSHFD, POPFD, PUSH, POP -/

/-- With VM at bit 17 the image is masked by 00FC_FFFFh (R202). -/
theorem pushfdImage_vm17 {s : State} (h : s.cfg.vmBit.val = 17) :
    pushfdImage s = s.eflags &&& 0x00FCFFFF := by
  have hmask : (0x00FEFFFF &&& ~~~ BitVec.twoPow 32 17 : Word) = 0x00FCFFFF := by decide
  rw [pushfdImage, h, BitVec.and_assoc, hmask]

/-- Settles O26: decoding by the round trip, the image as the word pushed, the frame of PUSHFD. -/
theorem pushfdPushesTheFlagsImage : Obligations.PushfdPushesTheFlagsImage := by
  refine ⟨decode_encode .pushfd, fun s hr hs => ?_⟩
  have h := execPushfd_of hr hs
  obtain ⟨hword, hout⟩ := exec_next_pushed h rfl
  exact ⟨_, h, rfl, hword, fun hvm => hword.trans (pushfdImage_vm17 hvm), hout, exec_next_eip h,
    exec_next_eflags h, exec_next_sameRegs h, exec_next_sameSystem h nofun nofun⟩

/-- CPUID is implemented on every processor of the spec, so ID is always in W (R25, R203). -/
theorem popfdMask_eq (s : State) : popfdMask s =
    0x00244DD5 ||| (if s.cpl = 0 then 0x00003000 else 0) |||
      (if s.cpl ≤ s.iopl then BitVec.twoPow 32 s.cfg.ifBit else 0) := by
  have hid : (0x00044DD5 ||| BitVec.twoPow 32 bitID : Word) = 0x00244DD5 := by decide
  rw [popfdMask, if_pos (hasCpuid_true _), hid]

/-- The three literals of R203, for IF at bit 9. -/
theorem popfdMask_if9 {s : State} (h : s.cfg.ifBit.val = 9) : popfdMask s =
    if s.cpl = 0 then 0x00247FD5 else if s.cpl ≤ s.iopl then 0x00244FD5 else 0x00244DD5 := by
  rw [popfdMask_eq, h]
  by_cases hcpl : s.cpl = 0
  · have hle : s.cpl ≤ s.iopl := hcpl ▸ Nat.zero_le _
    rw [if_pos hcpl, if_pos hle, if_pos hcpl]
    decide
  · rw [if_neg hcpl, if_neg hcpl]
    split
    · decide
    · decide

/-- Settles O27: decoding by the round trip, both forms of W are the mask of POPFD, the frame. -/
theorem popfdWritesTheWritableFlags : Obligations.PopfdWritesTheWritableFlags := by
  refine ⟨decode_encode .popfd, fun s hr hs => ?_⟩
  have h := execPopfd_of hr hs
  refine ⟨_, h, rfl, fun W hW => ?_, fun hif W hW => ?_, exec_next_eip h, exec_next_sameRegs h,
    exec_next_sameSystem h nofun nofun, exec_next_sameMemory h rfl⟩
  · rw [hW.trans (popfdMask_eq s).symm]
    rfl
  · rw [hW.trans (popfdMask_if9 hif).symm]
    rfl

/-- Settles O28: decoding by the round trip, the register before the decrement as the word pushed, the
frame. -/
theorem pushStoresTheRegister : Obligations.PushStoresTheRegister := by
  refine fun r => ⟨decode_encode (.pushR32 r), fun s hr hs => ?_⟩
  have h := execPushR32_of (r := r) hr hs
  obtain ⟨hword, hout⟩ := exec_next_pushed h rfl
  exact ⟨_, h, rfl, hword, hout, exec_next_eip h, exec_next_eflags h, exec_next_sameRegs h,
    exec_next_sameSystem h nofun nofun⟩

/-- Settles O29: decoding by the round trip; the register is written last, so ESP keeps its increment
unless it is the register. -/
theorem popLoadsTheRegister : Obligations.PopLoadsTheRegister := by
  refine fun r => ⟨decode_encode (.popR32 r), fun s hr hs => ?_⟩
  have h := execPopR32_of (r := r) hr hs
  refine ⟨_, h, ?_, fun hne => ?_, exec_next_eip h, exec_next_eflags h, exec_next_sameRegs h,
    exec_next_sameSystem h nofun nofun, exec_next_sameMemory h rfl⟩
  · rw [State.setEip_reg, State.reg_setReg, if_pos rfl]
  · rw [State.setEip_esp, State.setReg_esp, if_neg hne.symm, State.setReg_esp, if_pos rfl]

/-- Settles O36: POP reads at `u` the word PUSH stored, and the two moves of ESP cancel. -/
theorem pushThenPopCarriesTheValue : Obligations.PushThenPopCarriesTheValue := by
  intro r q s t u h hq _ hesp hmem hss hr
  obtain ⟨hword, -⟩ := exec_next_pushed h rfl
  obtain ⟨-, -, hflat, hwritable, hroom, rfl⟩ := execPushR32_next h
  have huesp : u.esp = s.esp - 4 := hesp
  have huss : u.ss = s.ss := hss
  obtain ⟨hbase, hlimit⟩ := s.ss.flat_iff.1 hflat
  have hs : StackReady u.esp u :=
    ⟨huss ▸ hbase, huss ▸ hlimit, huss ▸ hwritable, huesp ▸ hroom⟩
  obtain ⟨-, hpop⟩ := popLoadsTheRegister q
  obtain ⟨v, hv, hvq, hvesp, -⟩ := hpop u hr hs
  refine ⟨v, hv, ?_, ?_⟩
  · rw [hvq, hmem, huesp, hword]
  · rw [hvesp hq, huesp, BitVec.sub_add_cancel]

/-! ### MOV -/

theorem movR32R32_effect {a b : Reg} {s : State} (hr : SampleReady 2 s) :
    ∃ t, exec (.movR32R32 a b) s = .next t ∧ t.reg a = s.reg b ∧ t.eip = s.eip + 2 ∧
      t.eflags = s.eflags ∧ SameRegsBut [a] s t ∧ SameSystem s t ∧ SameMemory s t := by
  have h := execMovR32R32_of (a := a) (b := b) hr
  refine ⟨_, h, ?_, exec_next_eip h, exec_next_eflags h, exec_next_sameRegs h,
    exec_next_sameSystem h nofun nofun, exec_next_sameMemory h rfl⟩
  rw [State.setEip_reg, State.reg_setReg, if_pos rfl]

theorem movR32Imm32_effect {r : Reg} {imm : Word} {s : State} (hr : SampleReady 5 s) :
    ∃ t, exec (.movR32Imm32 r imm) s = .next t ∧ t.reg r = imm ∧ t.eip = s.eip + 5 ∧
      t.eflags = s.eflags ∧ SameRegsBut [r] s t ∧ SameSystem s t ∧ SameMemory s t := by
  have h := execMovR32Imm32_of (r := r) (imm := imm) hr
  refine ⟨_, h, ?_, exec_next_eip h, exec_next_eflags h, exec_next_sameRegs h,
    exec_next_sameSystem h nofun nofun, exec_next_sameMemory h rfl⟩
  rw [State.setEip_reg, State.reg_setReg, if_pos rfl]

/-- Settles O30: either encoding decodes to MOV between registers, and so does the one of the
immediate form; effect and frame of each. -/
theorem movCopiesAndLoads : Obligations.MovCopiesAndLoads := by
  refine ⟨fun a b => ⟨?_, ?_, fun s hr => movR32R32_effect hr⟩,
    fun r imm => ⟨?_, fun s hr => movR32Imm32_effect hr⟩⟩
  · exact decode_encode (.movR32R32 a b)
  · exact decode_encodeAlternative (.movR32R32 a b)
  · exact decode_encode (.movR32Imm32 r imm)

/-! ### XOR, CMP, TEST -/

/-- Parity by exclusive or is parity by counting (R213). -/
theorem evenParity_eq_evenOnes (r : Word) : evenParity r = evenOnes r := by
  have hcount : ∀ b0 b1 b2 b3 b4 b5 b6 b7 : Bool,
      (!((b0 ^^ b1) ^^ (b2 ^^ b3) ^^ ((b4 ^^ b5) ^^ (b6 ^^ b7)))) =
        ([b0, b1, b2, b3, b4, b5, b6, b7].countP id % 2 == 0) := by decide
  rw [evenParity, hcount]
  rfl

/-- `LOGIC_FLAGS(r)` in the terms of the statements; AF is left open (R213). -/
theorem logicFlags_flags (r e : Word) (af : Bool) :
    (logicFlags r af e).getLsbD 0 = false ∧ (logicFlags r af e).getLsbD 11 = false ∧
    (logicFlags r af e).getLsbD 6 = decide (r = 0) ∧
    (logicFlags r af e).getLsbD 7 = r.getLsbD 31 ∧ (logicFlags r af e).getLsbD 2 = evenOnes r ∧
    ∀ i, i ∉ [0, 2, 4, 6, 7, 11] → (logicFlags r af e).getLsbD i = e.getLsbD i := by
  refine ⟨getLsbD_logicFlags .., getLsbD_logicFlags .., getLsbD_logicFlags ..,
    getLsbD_logicFlags .., ?_, fun i hi => ?_⟩
  · rw [← evenParity_eq_evenOnes]
    exact getLsbD_logicFlags ..
  · simp only [List.mem_cons, List.not_mem_nil, or_false, not_or] at hi
    simp [getLsbD_logicFlags, hi]

theorem extractLsb'_low4_lt_iff (a b : Word) :
    a.extractLsb' 0 4 < b.extractLsb' 0 4 ↔ a.toNat % 16 < b.toNat % 16 := by
  simp [BitVec.lt_def, BitVec.extractLsb'_toNat]

/-- `SUB_FLAGS(a, b)` in the terms of the statements (R213). -/
theorem subFlags_flags (a b e : Word) :
    (subFlags a b e).getLsbD 0 = decide (a.toNat < b.toNat) ∧
    (subFlags a b e).getLsbD 11 =
      decide (a.getLsbD 31 ≠ b.getLsbD 31 ∧ (a - b).getLsbD 31 ≠ a.getLsbD 31) ∧
    (subFlags a b e).getLsbD 4 = decide (a.toNat % 16 < b.toNat % 16) ∧
    (subFlags a b e).getLsbD 6 = decide (a = b) ∧
    (subFlags a b e).getLsbD 7 = (a - b).getLsbD 31 ∧
    (subFlags a b e).getLsbD 2 = evenOnes (a - b) ∧
    ∀ i, i ∉ [0, 2, 4, 6, 7, 11] → (subFlags a b e).getLsbD i = e.getLsbD i := by
  refine ⟨getLsbD_subFlags .., ?_, ?_, ?_, getLsbD_subFlags .., ?_, fun i hi => ?_⟩
  · refine (getLsbD_subFlags ..).trans ?_
    simp [subOverflow, bne, beq_eq_decide]
  · refine (getLsbD_subFlags ..).trans ?_
    simp [extractLsb'_low4_lt_iff]
  · refine (getLsbD_subFlags ..).trans ?_
    exact decide_eq_decide.2 sub_eq_zero
  · rw [← evenParity_eq_evenOnes]
    exact getLsbD_subFlags ..
  · simp only [List.mem_cons, List.not_mem_nil, or_false, not_or] at hi
    simp [getLsbD_subFlags, hi]

/-- Settles O31: decoding by the round trip, the flags of LOGIC_FLAGS, the frame. -/
theorem xorWritesEaxAndLogicFlags : Obligations.XorWritesEaxAndLogicFlags := by
  refine fun imm => ⟨decode_encode (.xorEaxImm32 imm), fun s hr => ?_⟩
  have h := execXorEaxImm32_of (imm := imm) hr
  obtain ⟨hcf, hof, hzf, hsf, hpf, hrest⟩ :=
    logicFlags_flags (s.eax ^^^ imm) s.eflags (Config.draw1 s.draws)
  exact ⟨_, h, rfl, hcf, hof, hzf, hsf, hpf, hrest, exec_next_eip h, exec_next_sameRegs h,
    exec_next_sameSystem h nofun nofun, exec_next_sameMemory h rfl⟩

/-- Settles O32: either encoding decodes to CMP, the flags of SUB_FLAGS, the frame. -/
theorem cmpSetsTheSubtractionFlags : Obligations.CmpSetsTheSubtractionFlags := by
  refine fun a b => ⟨decode_encode (.cmpR32R32 a b), decode_encodeAlternative (.cmpR32R32 a b),
    fun s hr => ?_⟩
  have h := execCmpR32R32_of (a := a) (b := b) hr
  obtain ⟨hcf, hof, haf, hzf, hsf, hpf, hrest⟩ := subFlags_flags (s.reg a) (s.reg b) s.eflags
  exact ⟨_, h, hcf, hof, haf, hzf, hsf, hpf, hrest, exec_next_eip h, exec_next_sameRegs h,
    exec_next_sameSystem h nofun nofun, exec_next_sameMemory h rfl⟩

/-- Settles O33: decoding by the round trip, the flags of LOGIC_FLAGS, the frame. -/
theorem testSetsTheLogicFlags : Obligations.TestSetsTheLogicFlags := by
  refine fun r imm => ⟨decode_encode (.testR32Imm32 r imm), fun s hr => ?_⟩
  have h := execTestR32Imm32_of (r := r) (imm := imm) hr
  obtain ⟨hcf, hof, hzf, hsf, hpf, hrest⟩ :=
    logicFlags_flags (s.reg r &&& imm) s.eflags (Config.draw1 s.draws)
  exact ⟨_, h, hcf, hof, hzf, hsf, hpf, hrest, exec_next_eip h, exec_next_sameRegs h,
    exec_next_sameSystem h nofun nofun, exec_next_sameMemory h rfl⟩

/-! ### JZ, JNZ -/

/-- Settles O34: decoding by the round trip, the target as a signed sum modulo 2^32, the frame. -/
theorem conditionalJumps : Obligations.ConditionalJumps := by
  refine fun rel => ⟨decode_encode (.jzRel8 rel), decode_encode (.jnzRel8 rel), fun s hr => ?_⟩
  have hjz := execJzRel8_of (rel := rel) hr
  have hjnz := execJnzRel8_of (rel := rel) hr
  rw [← branchTarget_eq_ofInt]
  refine ⟨⟨_, hjz, rfl, exec_next_eflags hjz, exec_next_sameRegs hjz,
      exec_next_sameSystem hjz nofun nofun, exec_next_sameMemory hjz rfl⟩,
    ⟨_, hjnz, ?_, exec_next_eflags hjnz, exec_next_sameRegs hjnz,
      exec_next_sameSystem hjnz nofun nofun, exec_next_sameMemory hjnz rfl⟩⟩
  have hzf : (!s.zf) = true ↔ s.eflags.getLsbD 6 = false := by rw [Bool.not_eq_true', State.zf]
  exact if_congr hzf rfl rfl

/-! ### Refusals -/

/-- Settles O56: the common conditions of the eleven look at VM first. -/
theorem sampleCodeIsRefusedInVirtual8086Mode : Obligations.SampleCodeIsRefusedInVirtual8086Mode := by
  intro i hcpuid hsyscall hsysret s hvm
  obtain ⟨k, hk⟩ := exec_eq_sampleCode (i := i) (by tauto) s
  rw [hk, sampleCode_vm hvm]

theorem stackAccess_notFlat {s : State} (h : ¬ s.ss.flat = true) (off : Word) (k : Nat → Result) :
    stackAccess s off k = .refused .stackSegmentNotFlat := by
  simp [stackAccess, h]

theorem stackAccess_notWritable {s : State} (hf : s.ss.flat = true)
    (hw : s.ss.attr.writable = false) (off : Word) (k : Nat → Result) :
    stackAccess s off k = .refused .stackSegmentNotWritable := by
  simp [stackAccess, hf, hw]

theorem stackAccess_wraps {s : State} {off : Word} (hf : s.ss.flat = true)
    (hw : s.ss.attr.writable = true) (ho : spaceSize < off.toNat + 4) (k : Nat → Result) :
    stackAccess s off k = .refused .stackAccessWraps := by
  simp [stackAccess, hf, hw, ho]

/-- A stack instruction is the common conditions, then an access at its offset: below ESP for the two
pushes, at ESP for the two pops (R202 to R205). -/
theorem exec_eq_stackAccess {i : Instr} {off : State → Word}
    (h : ((i = .pushfd ∨ ∃ r, i = .pushR32 r) ∧ off = fun s => s.esp - 4) ∨
      ((i = .popfd ∨ ∃ r, i = .popR32 r) ∧ off = fun s => s.esp)) (s : State) :
    ∃ k : Word → Nat → Result,
      exec i s = sampleCode 1 s fun next => stackAccess s (off s) (k next) := by
  obtain ⟨rfl | ⟨r, rfl⟩, rfl⟩ | ⟨rfl | ⟨r, rfl⟩, rfl⟩ := h
  · exact ⟨fun next a =>
      .next (((s.storeWord a (pushfdImage s)).setReg .esp (s.esp - 4)).setEip next), rfl⟩
  · exact ⟨fun next a =>
      .next (((s.storeWord a (s.reg r)).setReg .esp (s.esp - 4)).setEip next), rfl⟩
  · exact ⟨_, rfl⟩
  · exact ⟨_, rfl⟩

/-- Settles O35: the common conditions refuse the first two, the stack access the other three. -/
theorem stackInstructionsAreRefusedOutsideTheirConditions :
    Obligations.StackInstructionsAreRefusedOutsideTheirConditions := by
  intro i off hi s
  obtain ⟨k, hk⟩ := exec_eq_stackAccess hi s
  rw [hk]
  refine ⟨fun hvm => sampleCode_vm hvm _, fun hvm hp => sampleCode_past hvm hp _, fun hr => ?_⟩
  rw [sampleCode_of hr.vmClear hr.placed]
  refine ⟨fun hflat => stackAccess_notFlat ?_ _ _, fun hbase hlimit => ?_⟩
  · rw [SegReg.flat_iff]
    tauto
  · have hflat := s.ss.flat_iff.2 ⟨hbase, hlimit⟩
    exact ⟨fun hw => stackAccess_notWritable hflat hw _ _, fun hw ho => stackAccess_wraps hflat hw ho _⟩

end Sys2Proof.Machine
end

section
/-! PROOFS. The statements about exceptions and privilege (60_exceptions.md): which faults there are, what
each level may do, what changes IF, and how a run enters level 0. -/

namespace Sys2Proof.Machine

/-! ### Faults -/

/-- SYSRET outside level 0 (R232). -/
theorem SystemCallReady.sysret_fault {s : State} (h : SystemCallReady s) (hcpl : s.cpl ≠ 0) :
    exec .sysret s = raise (.generalProtection 0) s := by
  rw [exec, execSysret, systemCallEnabled_of h.placed h.feature h.sce, if_pos hcpl]

/-- SYSCALL faults only while EFER.SCE is 0 (R231). -/
theorem execSyscall_fault {s : State} {r : Fault} (h : exec .syscall s = .fault r) :
    s.sce = false ∧ r = .exception 6 none s.eip := by
  rw [exec, execSyscall] at h
  obtain ⟨-, hdisabled | ⟨-, hnext⟩⟩ := systemCallEnabled_fault h
  · exact hdisabled
  · cases hnext

/-- SYSRET faults while EFER.SCE is 0, and otherwise only outside level 0 (R231, R232, R234). -/
theorem execSysret_fault {s : State} {r : Fault} (h : exec .sysret s = .fault r) :
    (s.sce = false ∧ r = .exception 6 none s.eip) ∨
      (s.sce = true ∧ s.cpl ≠ 0 ∧ r = .exception 13 (some 0) s.eip) := by
  rw [exec, execSysret] at h
  obtain ⟨-, hdisabled | ⟨hsce, hown⟩⟩ := systemCallEnabled_fault h
  · exact .inl hdisabled
  · split at hown
    · cases hown
      exact .inr ⟨hsce, ‹_›, rfl⟩
    · cases hown

/-- CPUID never faults: every processor of the spec implements it (R101). -/
theorem execCpuid_not_fault {s : State} {r : Fault} : exec .cpuid s ≠ .fault r := by
  intro h
  rw [exec, execCpuid] at h
  obtain ⟨-, h⟩ := withNextPc_fault h
  rw [if_pos (hasCpuid_true _)] at h
  cases h

/-- Only SYSCALL and SYSRET raise an exception (R230). -/
theorem exec_fault_systemCall {i : Instr} {s : State} {r : Fault} (h : exec i s = .fault r) :
    i = .syscall ∨ i = .sysret := by
  cases i with
  | syscall => exact .inl rfl
  | sysret => exact .inr rfl
  | cpuid => exact absurd h execCpuid_not_fault
  | pushfd | pushR32 r => exact absurd h (sampleCode_not_fault fun _ => push32_not_fault nofun)
  | popfd | popR32 r => exact absurd h (sampleCode_not_fault fun _ => pop32_not_fault nofun)
  | _ => exact absurd h (sampleCode_not_fault nofun)

/-- Settles O49: a fault is one of SYSCALL or of SYSRET, and those are known. -/
theorem onlyTheTwoExceptionsAreRaised : Obligations.OnlyTheTwoExceptionsAreRaised := by
  intro s r h
  obtain ⟨i, hfetch, hx⟩ := step_fault h
  obtain rfl | rfl := exec_fault_systemCall hx
  · exact .inl ⟨.inl hfetch, execSyscall_fault hx⟩
  · obtain hdisabled | hlevel := execSysret_fault hx
    · exact .inl ⟨.inr hfetch, hdisabled⟩
    · exact .inr ⟨hfetch, hlevel⟩

/-- Settles O21: SYSRET's own condition, and SYSCALL's only fault has vector 6. -/
theorem sysretNeedsPrivilegeLevelZero : Obligations.SysretNeedsPrivilegeLevelZero := by
  refine ⟨fun s hready hcpl => hready.sysret_fault hcpl, fun s e pc h => ?_⟩
  obtain ⟨-, hr⟩ := execSyscall_fault h
  cases hr

/-! ### Levels -/

/-- Settles O25: CPUID writes no CPL, SYSCALL forces it to 0, and CPL decides for SYSRET. -/
theorem privilegeTable : Obligations.PrivilegeTable := by
  intro s hready
  obtain ⟨t, ht⟩ := hready.syscall_next
  obtain ⟨-, -, -, rfl⟩ := execSyscall_next ht
  exact ⟨⟨_, execCpuid_of hready.placed, rfl⟩, ⟨_, ht, rfl⟩, hready.sysret_next, hready.sysret_fault⟩

/-! ### The interrupt flag -/

/-- With IF at a position of its own, CPL and IOPL alone decide whether it is in W of POPFD (R203). -/
theorem popfdMask_ifBit {s : State} (h : s.cfg.flagsApart) :
    (popfdMask s).getLsbD s.cfg.ifBit = decide (s.cpl ≤ s.iopl) := by
  have hliterals : ∀ j : Fin 32, j.val ∉ Config.takenFlagBits →
      (0x00044DD5 : Word).getLsbD j = false ∧ (0x00003000 : Word).getLsbD j = false ∧
        j.val ≠ bitID := by decide
  obtain ⟨hif, -, -⟩ := h
  obtain ⟨halways, hiopl, hid⟩ := hliterals _ hif
  rw [popfdMask_bit _ _ s.cfg.ifBit.isLt, halways, hiopl]
  simp [hid]

/-- POPFD above IOPL keeps IF (R203, R239). -/
theorem popfdFlags_ifBit {s : State} (h : s.cfg.flagsApart) (hcpl : ¬ s.cpl ≤ s.iopl) (v : Word) :
    (popfdFlags s v).getLsbD s.cfg.ifBit = s.eflags.getLsbD s.cfg.ifBit := by
  have hmask := popfdMask_ifBit h
  obtain ⟨hif, -, -⟩ := h
  have hrf : s.cfg.ifBit.val ≠ bitRF := fun e => hif (by simp [e])
  rw [getLsbD_popfdFlags _ _ _ s.cfg.ifBit.isLt, hmask]
  simp [hrf, hcpl]

/-- An instruction that is none of SYSCALL, SYSRET and POPFD writes at most the six flags of LOGIC_FLAGS
and SUB_FLAGS (R213). -/
theorem eflagsAfter_of_not_resultFlag {i : Instr} {s : State} {j : Nat} (hc : i ≠ .syscall)
    (hr : i ≠ .sysret) (hp : i ≠ .popfd) (hj : j ∉ [0, 2, 4, 6, 7, 11]) :
    (eflagsAfter i s).getLsbD j = s.eflags.getLsbD j := by
  cases i with
  | syscall => exact absurd rfl hc
  | sysret => exact absurd rfl hr
  | popfd => exact absurd rfl hp
  | xorEaxImm32 imm =>
    obtain ⟨-, -, -, -, -, hrest⟩ := logicFlags_flags (s.eax ^^^ imm) s.eflags (Config.draw1 s.draws)
    exact hrest j hj
  | testR32Imm32 r imm =>
    obtain ⟨-, -, -, -, -, hrest⟩ := logicFlags_flags (s.reg r &&& imm) s.eflags (Config.draw1 s.draws)
    exact hrest j hj
  | cmpR32R32 a b =>
    obtain ⟨-, -, -, -, -, -, hrest⟩ := subFlags_flags (s.reg a) (s.reg b) s.eflags
    exact hrest j hj
  | _ => rfl

/-- Settles O51: SYSCALL clears IF, SYSRET sets it, POPFD keeps it above IOPL, and it is none of the six
flags that the others write. -/
theorem interruptFlagChangesOnlyByThree : Obligations.InterruptFlagChangesOnlyByThree := by
  intro i s t h hapart hchanged
  rw [exec_next_eflags h] at hchanged ⊢
  by_cases hc : i = .syscall
  · subst hc
    exact .inl ⟨rfl, getLsbD_clear_clear ..⟩
  by_cases hr : i = .sysret
  · subst hr
    exact .inr (.inl ⟨rfl, getLsbD_setBit_self ..⟩)
  by_cases hp : i = .popfd
  · subst hp
    refine .inr (.inr ⟨rfl, ?_⟩)
    by_contra hcpl
    exact hchanged (popfdFlags_ifBit hapart hcpl _)
  · obtain ⟨hif, -, -⟩ := hapart
    have hsix : [0, 2, 4, 6, 7, 11] ⊆ Config.takenFlagBits := by decide
    exact absurd (eflagsAfter_of_not_resultFlag hc hr hp fun hj => hif (hsix hj)) hchanged

/-! ### Entering level 0 along a run -/

/-- A run that begins outside `P` and ends in `P` has a step that enters `P`. -/
theorem run_enters {M : Host.Core} {P : M.State → Prop} {n : Nat} {s t : M.State}
    (h : M.run n s = .next t) (hs : ¬ P s) (ht : P t) :
    ∃ k u v, k < n ∧ M.run k s = .next u ∧ ¬ P u ∧ M.step u = .next v ∧ P v := by
  induction n generalizing s with
  | zero =>
    cases h
    exact absurd ht hs
  | succ n ih =>
    obtain ⟨w, hsw, hwt⟩ := run_succ_next h
    by_cases hw : P w
    · exact ⟨0, s, w, Nat.succ_pos n, rfl, hs, hsw, hw⟩
    · obtain ⟨k, u, v, hk, hwu, huv⟩ := ih hwt hw
      have hsu : M.run (k + 1) s = .next u := by rw [Host.Core.run, hsw]; exact hwu
      exact ⟨k + 1, u, v, Nat.succ_lt_succ hk, hsu, huv⟩

/-- A run writes neither MSR nor the configuration (R32, R38, D22). -/
theorem run_msrs_cfg {n : Nat} {s u : State} (h : core.run n s = .next u) :
    u.efer = s.efer ∧ u.star = s.star ∧ u.cfg = s.cfg := by
  refine run_keeps (M := core) (P := fun u : State => u.efer = s.efer ∧ u.star = s.star ∧ u.cfg = s.cfg)
    ?_ h ⟨rfl, rfl, rfl⟩
  rintro u v hstep ⟨hefer, hstar, hcfg⟩
  obtain ⟨i, -, hx⟩ := step_next hstep
  obtain ⟨hefer', hstar', hcfg'⟩ := exec_next_msrs_cfg hx
  exact ⟨hefer'.trans hefer, hstar'.trans hstar, hcfg'.trans hcfg⟩

/-- A step from outside level 0 into it has executed SYSCALL (R244). -/
theorem step_enters_level_zero {u v : State} (h : step u = .next v) (hu : u.cpl ≠ 0) (hv : v.cpl = 0) :
    fetch u = .ok .syscall ∧ exec .syscall u = .next v := by
  obtain ⟨i, hfetch, hx⟩ := step_next h
  obtain hkept | ⟨rfl, -⟩ | ⟨-, hthree⟩ := exec_next_cpl hx
  · exact absurd (hkept.symm.trans hv) hu
  · exact ⟨hfetch, hx⟩
  · exact absurd (hthree.symm.trans hv) (by decide)

/-- Settles O52: some step of the run enters level 0, that step is a SYSCALL, and the MSRs it reads are
those of the start. -/
theorem levelZeroIsEnteredOnlyThroughStar : Obligations.LevelZeroIsEnteredOnlyThroughStar := by
  intro n s t hrun hs ht
  obtain ⟨k, u, v, hk, hsu, hu, huv, hv⟩ :=
    run_enters (M := core) (P := fun u : State => u.cpl = 0) hrun hs ht
  obtain ⟨hefer, hstar, hcfg⟩ := run_msrs_cfg hsu
  obtain ⟨hfetch, hx⟩ := step_enters_level_zero huv hu hv
  obtain ⟨-, -, hsce, rfl⟩ := execSyscall_next hx
  rw [← hefer, ← hstar, ← hcfg]
  exact ⟨k, u, _, hk, hsu, hu, hfetch, huv, rfl, hsce, rfl, rfl, getLsbD_clear_clear ..,
    getLsbD_setBit_self ..⟩

end Sys2Proof.Machine
end
